-- ==== Sys2Proof/Word.lean ====
section
/-! DEFINITION. The two word sizes of the block: the 8-bit byte of the stream, the buffer and the COBS code (R9), and
the 32-bit checksum (R11). All values are unsigned and bit 0 is the least significant bit (R19). -/

namespace Sys2Proof

/-- R9 (`BYTE_W = 8`): the unit of the input stream, of the buffer and of every COBS code. -/
abbrev Byte := BitVec 8

/-- R11 (`CRC_W = 32`): the checksum and the CRC shift register. -/
abbrev Word32 := BitVec 32

end Sys2Proof
end

