-- ==== Sys2Proof/Config.lean ====
section
/-! DEFINITION. What is fixed for the block: the constants of 00_scope.md R8 to R12, the two build-time parameters of R13
and R14, the Payload Codec, which R15 and R83 leave to the model as two unknown functions, and the free values. -/

namespace Sys2Proof
namespace Config

/-- R8 `SENTINEL`: the one byte value that marks a frame boundary. -/
def sentinel : Byte := 0x00

/-- R10 `MAX_RUN`: the most data bytes one COBS block carries. -/
def maxRun : Nat := 254

/-- R10 `CODE_FULL`: the largest code byte, a run of `maxRun` data bytes. -/
def codeFull : Byte := 0xFF

/-- R11 `CKSUM_LEN`: bytes of the Checksum at the end of the Unstuffed Payload. -/
def cksumLen : Nat := 4

/-- R12 `CRC_POLY`, the reflected polynomial. -/
def crcPoly : Word32 := 0xEDB88320

/-- R12 `CRC_INIT`. -/
def crcInit : Word32 := 0xFFFFFFFF

/-- R12 `CRC_XOROUT`. -/
def crcXorOut : Word32 := 0xFFFFFFFF

end Config

/-- R14 `SHORT_KIND`: the error kind of an unstuffed payload shorter than 4 bytes. The source allows both. -/
inductive ShortKind where
  | framing
  | integrity
deriving DecidableEq, Repr

/-- The build-time parameters of R13 and R14. They are parameters of the step function (R36), so no step changes them;
`State.params` carries them, and a claim about every state is a claim about every parameter (log entry 3). -/
structure Params where
  /-- R13 `BUF_CAP`: `none` is `unbounded`. -/
  bufCap : Option Nat
  /-- R14 `SHORT_KIND`. -/
  shortKind : ShortKind
deriving DecidableEq, Repr

/-- R13: `BUF_CAP >= 1` is required. -/
def Params.wf (p : Params) : Bool :=
  p.bufCap.all fun cap => decide (1 ≤ cap)

/-- The parameters of the reset state: `BUF_CAP = unbounded`, with which the block agrees with the source on every input
(R13), and the spec's default `SHORT_KIND = FramingError` (R14). -/
def Params.default : Params := { bufCap := none, shortKind := .framing }

/-- R22, R83: a Message, "a decoded structured value whose concrete shape is opaque to the framing layer". Only its
identity is modelled; nothing may be concluded from the number (log entry 4). -/
structure Message where
  tag : Nat
deriving DecidableEq, Repr, Inhabited

/-- R83: the Payload Codec as the block sees it, a pair of functions. `decode` answers `none` for a `CodecError`. -/
structure Codec where
  encode : Message → List Byte
  decode : List Byte → Option Message
deriving Inhabited

/-- R84, the one law the spec assumes of a codec, at one message: it round-trips. -/
def Codec.roundTrips (c : Codec) (m : Message) : Prop :=
  c.decode (c.encode m) = some m

/-- R15: the codec of the system the block stands in: unknown, with no body, so that nothing can be proved of its
values (log entry 4). -/
opaque Config.codec : Codec

/-- Free values (log entry 5), with no body: what the spec leaves at any value, as numbers, bytes, 32-bit values and byte
sequences. They are applied to a counter that State advances, so that no two of them need agree. -/
opaque Config.freeNat : Nat → Nat
opaque Config.freeByte : Nat → Byte
opaque Config.freeWord : Nat → Word32
opaque Config.freeBytes : Nat → List Byte

end Sys2Proof
end

