-- ==== Sys2Proof/Syntax.lean ====
section
/-! DEFINITION. The operations of the block, one constructor for each row of spec/opcode_table.json. The block has no
instruction set (R2); its operations are selected by the class of a received byte (format RXBYTE, R52), by the class of a
COBS code byte (format COBSCODE, R53), by an input event without bits (format EVENT) or by a call (format FUNCTION, R56).
A constructor's arguments are the operands its rule names. -/

namespace Sys2Proof

/-- The operations of spec/opcode_table.json, in the table's order. -/
inductive Instr where
  /-- `RX.IDLE` (R89): a sentinel while the buffer is empty. -/
  | rxIdle
  /-- `RX.END` (R91): a sentinel while the buffer is not empty. -/
  | rxEnd
  /-- `RX.ACCUM` (R88): the non-sentinel byte `b` while there is room. -/
  | rxAccum (b : Byte)
  /-- `RX.OVF` (R93): the non-sentinel byte `b` while the buffer is full. -/
  | rxOvf (b : Byte)
  /-- `RX.TIMEOUT` (R94). -/
  | rxTimeout
  /-- `RX.STOP` (R95). -/
  | rxStop
  /-- `RX.LOST` (R96). -/
  | rxLost
  /-- `COBS.ZERO` (R60): the code byte `0x00`. -/
  | cobsZero
  /-- `COBS.RUN` (R58): a code byte `c` in `0x01..0xFE` whose block fits. -/
  | cobsRun (c : Byte)
  /-- `COBS.FULL` (R59): the code byte `0xFF` whose block fits. -/
  | cobsFull
  /-- `COBS.OVERRUN` (R61): a code byte `c` whose block does not fit. -/
  | cobsOverrun (c : Byte)
  /-- `DESTUFF` (R57) of the sequence `s`. -/
  | destuff (s : List Byte)
  /-- `STUFF` (R68) of the sequence `b`. -/
  | stuff (b : List Byte)
  /-- `CRC32` (R72) of the sequence `b`. -/
  | crc32 (b : List Byte)
  /-- `CRC32.BYTE` (R73): the register value `crc` updated by the byte `x`. -/
  | crc32Byte (crc : Word32) (x : Byte)
  /-- `VERIFY` (R77): does `CRC32` of `b` equal `x`. -/
  | verify (b : List Byte) (x : Word32)
  /-- `CHECK` (R80) of the unstuffed payload `pay`. -/
  | check (pay : List Byte)
  /-- `PIPELINE` (R91) on the stuffed payload `s`. -/
  | pipeline (s : List Byte)
  /-- `READ` (R98) of the stuffed payload `s`. -/
  | read (s : List Byte)
  /-- `WRITE_E` (R99) of the Encoded Message Bytes `e`. -/
  | writeE (e : List Byte)
  /-- `WRITE` (R101) of the message `m`. -/
  | write (m : Message)
deriving DecidableEq, Repr

end Sys2Proof
end

