-- ==== Sys2Proof/WellFormed.lean ====
section
/-! DEFINITION. The operand ranges of spec/opcode_table.json (`value_range` and the constraints of `source_fields`). -/

namespace Sys2Proof

/-- R52, R53: a non-sentinel byte where the operation takes one, `0x01..0xFE` for `COBS.RUN`, `0x01..0xFF` for
`COBS.OVERRUN`. The operations without a byte operand, and the functions, take every operand (R54). -/
def Instr.wf : Instr → Bool
  | .rxIdle => true
  | .rxEnd => true
  | .rxAccum b => b != Config.sentinel
  | .rxOvf b => b != Config.sentinel
  | .rxTimeout => true
  | .rxStop => true
  | .rxLost => true
  | .cobsZero => true
  | .cobsRun c => c != 0x00 && c != Config.codeFull
  | .cobsFull => true
  | .cobsOverrun c => c != 0x00
  | .destuff _ => true
  | .stuff _ => true
  | .crc32 _ => true
  | .crc32Byte _ _ => true
  | .verify _ _ => true
  | .check _ => true
  | .pipeline _ => true
  | .read _ => true
  | .writeE _ => true
  | .write _ => true

end Sys2Proof
end

