-- ==== Sys2Proof/Decode.lean ====
section
/-! DEFINITION. The two byte-level decodings of 30_encoding.md (R52: a received byte, R53: a byte at a code position) and
the encoder. All eight bits of a byte are significant in both, and which operation a byte selects also depends on where it
stands; `Slot` says where. No byte value is reserved (R54), so the only thing decoding can lack is a byte. -/

namespace Sys2Proof

/-- Where the byte to decode stands. The same byte is another operation in another place (R55). -/
inductive Slot where
  /-- At the input port (R52); `empty` is `len = 0`, `full` is `len = BUF_CAP`. -/
  | rx (empty full : Bool)
  /-- At a code position (R53) with `room` bytes from it to the end of the stuffed input, itself included: `n - i`. -/
  | code (room : Nat)
deriving DecidableEq, Repr

/-- Why decoding gives no operation. -/
inductive DecodeError where
  /-- There is no byte to decode. -/
  | noByte
deriving DecidableEq, Repr

/-- The four classes of R53. -/
inductive CodeClass where
  | zero
  | run
  | full
  | overrun
deriving DecidableEq, Repr

/-- R53: the class of the code byte `c` where `room = n - i`; `i + c > n` is `room < c`. -/
def classifyCode (room : Nat) (c : Byte) : CodeClass :=
  if c = 0x00 then .zero
  else if room < c.toNat then .overrun
  else if c = Config.codeFull then .full
  else .run

/-- R53, the operation a code byte selects. -/
def decodeCode (room : Nat) (c : Byte) : Instr :=
  match classifyCode room c with
  | .zero => .cobsZero
  | .run => .cobsRun c
  | .full => .cobsFull
  | .overrun => .cobsOverrun c

/-- R52 and R87, the operation a received byte selects: the comparison with the sentinel comes first. -/
def decodeRx (empty full : Bool) (b : Byte) : Instr :=
  if b = Config.sentinel then (if empty then .rxIdle else .rxEnd)
  else (if full then .rxOvf b else .rxAccum b)

/-- Decoding one operation from the front of a byte sequence; the rest is given back. -/
def decode (slot : Slot) (bytes : List Byte) : Except DecodeError (Instr × List Byte) :=
  match bytes with
  | [] => .error .noByte
  | b :: rest =>
    match slot with
    | .rx empty full => .ok (decodeRx empty full b, rest)
    | .code room => .ok (decodeCode room b, rest)

/-- The bytes of an operation: one byte for the formats RXBYTE and COBSCODE, none for EVENT and FUNCTION, which no bit
pattern selects (the table's empty encodings). -/
def encode : Instr → List Byte
  | .rxIdle => [0x00]
  | .rxEnd => [0x00]
  | .rxAccum b => [b]
  | .rxOvf b => [b]
  | .rxTimeout => []
  | .rxStop => []
  | .rxLost => []
  | .cobsZero => [0x00]
  | .cobsRun c => [c]
  | .cobsFull => [0xFF]
  | .cobsOverrun c => [c]
  | .destuff _ => []
  | .stuff _ => []
  | .crc32 _ => []
  | .crc32Byte _ _ => []
  | .verify _ _ => []
  | .check _ => []
  | .pipeline _ => []
  | .read _ => []
  | .writeE _ => []
  | .write _ => []

/-- The condition column of R52 and R53, as far as it is about the place of the byte. -/
def Instr.selectedBy (i : Instr) (slot : Slot) : Bool :=
  match i, slot with
  | .rxIdle, .rx empty _ => empty
  | .rxEnd, .rx empty _ => !empty
  | .rxAccum _, .rx _ full => !full
  | .rxOvf _, .rx _ full => full
  | .cobsZero, .code _ => true
  | .cobsRun c, .code room => decide (c.toNat ≤ room)
  | .cobsFull, .code room => decide (255 ≤ room)
  | .cobsOverrun c, .code room => decide (room < c.toNat)
  | _, _ => false

/-- The host's question, in the table's numbering: what the decoder reads from the word `w` of `nbits` bits. Only words of
one byte exist; such a word is read as a byte at the input port of a block that is Idle with an empty buffer, the place
where the first byte after reset stands (log entry 11). The rows of no bits have no word. -/
def decodeTableWord (nbits w : Nat) : Option Instr :=
  if nbits = 8 ∧ w < 256 then
    match decode (.rx true false) [BitVec.ofNat 8 w] with
    | .ok (i, _) => some i
    | .error _ => none
  else none

end Sys2Proof
end

