-- ==== Sys2Proof/Machine/State.lean ====
section
/-! DEFINITION. The state as plain data. What persists in the block from one step to the next is `fsm`, `buf` (with its
length `len`) and `ovf` (R23); the working registers of R31 stand in `work`; `params` carries the parameters of R13 and
R14. The remaining fields are the model's own: what the environment presents (`pending`), what the block has emitted
(`output`), the caller's side of the function-level operations (`walking`, `ret`), and the count of free values used. -/

namespace Sys2Proof
namespace Machine

/-- R27, the three values of the reader state. -/
inductive Fsm where
  | idle
  | accumulating
  | stopped
deriving DecidableEq, Repr

/-- R104, the three error kinds; the block raises the first two, the downstream codec the third. -/
inductive ErrorKind where
  | framing
  | integrity
  | codec
deriving DecidableEq, Repr

/-- R113, the causes. -/
inductive Cause where
  | empty
  | zeroCode
  | overrun
  | zeroData
  | shortPayload
  | overflow
  | crcMismatch
deriving DecidableEq, Repr

/-- R21: what `raise Kind(cause)` carries. -/
structure Raise where
  kind : ErrorKind
  cause : Cause
deriving DecidableEq, Repr

/-- R17, the input event alphabet. -/
inductive InputEvent where
  | byte (b : Byte)
  | timeout
  | stop
  | lost
deriving DecidableEq, Repr

/-- R17, the output event alphabet; R112 says what each carries. -/
inductive OutputEvent where
  | message (e : List Byte)
  | error (kind : ErrorKind) (cause : Cause)
  | exited
  | transportLost
deriving DecidableEq, Repr

/-- A call of one of the ten function-level operations (format FUNCTION) with its operands. -/
inductive Fn where
  | destuff (s : List Byte)
  | stuff (b : List Byte)
  | crc32 (b : List Byte)
  | crc32Byte (crc : Word32) (x : Byte)
  | verify (b : List Byte) (x : Word32)
  | check (pay : List Byte)
  | pipeline (s : List Byte)
  | read (s : List Byte)
  | writeE (e : List Byte)
  | write (m : Message)
deriving DecidableEq, Repr

/-- What the environment does next, one a step: it presents an input event (R17), resets the block (R126), or uses one of
the companion functions on its own (R6), the de-stuffer also block by block (log entries 7 and 8). -/
inductive Action where
  | event (e : InputEvent)
  | reset
  /-- Begin `DESTUFF` of `s`, to be evaluated one COBS block a step. -/
  | beginWalk (s : List Byte)
  /-- Run the next COBS block of the `DESTUFF` that has begun. -/
  | walkBlock
  | call (f : Fn)
deriving DecidableEq, Repr

/-- What a function-level operation gives back to its caller. -/
inductive Ret where
  | bytes (b : List Byte)
  | word (w : Word32)
  | flag (b : Bool)
  /-- The outcome of `PIPELINE` as an event (R92). -/
  | event (o : OutputEvent)
  | message (m : Message)
  | raised (r : Raise)
  /-- R107: the codec refused the Encoded Message Bytes. -/
  | codecError
deriving DecidableEq, Repr

/-- R31, the working registers, and the operand `src` of the `DESTUFF` they work on (`s`, with `n = len(s)`). `plen` is
the length of `pay`. They carry nothing from one step of the block to the next. -/
structure Work where
  src : List Byte
  /-- R31 `i`: index of the current code byte. -/
  i : Nat
  /-- R31 `code`: the current code byte. -/
  code : Byte
  /-- R31 `k`: offset of the data byte being copied. -/
  k : Byte
  /-- R31 `pay`: the unstuffed payload. -/
  pay : List Byte
  /-- R31 `crc`: the CRC shift register. -/
  crc : Word32
  /-- R31 `rxsum`: the received checksum. -/
  rxsum : Word32
deriving DecidableEq, Repr

/-- R31 `plen`. -/
def Work.plen (w : Work) : Nat := w.pay.length

structure State where
  /-- R13, R14, R36: the parameters. -/
  params : Params
  /-- R27. -/
  fsm : Fsm
  /-- R24: the accumulation buffer, `buf[0]` first; what lies beyond `len` is unreachable and not held. -/
  buf : List Byte
  /-- R29. -/
  ovf : Bool
  /-- R31. -/
  work : Work
  /-- Model's own: how many free values have been used (log entry 5). -/
  freeCount : Nat
  /-- Model's own: a `DESTUFF` walked block by block is under way. -/
  walking : Bool
  /-- Model's own: what the environment presents, next first. -/
  pending : List Action
  /-- Model's own: the output events emitted so far, first emitted first (R137). -/
  output : List OutputEvent
  /-- Model's own: what the last function-level operation gave back. -/
  ret : Option Ret
deriving DecidableEq, Repr

/-- R25 `len`. -/
abbrev State.len (s : State) : Nat := s.buf.length

/-- The block has no fault: every input byte has a meaning (R54), an error of a frame is an event after which the reader
goes on (R104), and the loss of the transport is an event followed by the state `Stopped` (R96). -/
inductive Fault
deriving DecidableEq, Repr

/-- Why an operation has no effect to give. -/
inductive Refusal where
  /-- Raised by an arm of `exec` for an operation without a meaning. Safe. No arm raises it. -/
  | notModelled (mnemonic : String)
  /-- Raised by a meaning of format RXBYTE or COBSCODE given to `exec` in a state, or with an operand, for which the
  table's condition does not select it (R86: every pair of state and event has exactly one row). The step selects by that
  condition, so no step raises it. Safe (log entry 9). -/
  | notSelected (mnemonic : String)
deriving DecidableEq, Repr

/-- R31, R37: the spec leaves the working registers unspecified at reset; the model names zero and the empty sequence
(log entry 5). -/
def Work.reset : Work :=
  { src := [], i := 0, code := 0, k := 0, pay := [], crc := 0, rxsum := 0 }

/-- R37: `fsm = Idle`, `len = 0`, `ovf = 0`, no output event. Nothing is presented yet (log entry 11). -/
def State.reset : State :=
  { params := Params.default, fsm := .idle, buf := [], ovf := false, work := Work.reset, walking := false,
    freeCount := 0, pending := [], output := [], ret := none }

/-- R31, I16: between operations the working registers hold any value; the `n`-th free value of each. -/
def Work.free (n : Nat) : Work :=
  { src := Config.freeBytes (2 * n), i := Config.freeNat n, code := Config.freeByte (2 * n),
    k := Config.freeByte (2 * n + 1), pay := Config.freeBytes (2 * n + 1), crc := Config.freeWord (2 * n),
    rxsum := Config.freeWord (2 * n + 1) }

end Machine
end Sys2Proof
end

