-- ==== Sys2Proof/Machine/Ops.lean ====
section
/-! DEFINITION. The named operations on the state that the meanings share: the buffer (R24, R88, R90), the output port
(R120), taking an error (R115), the caller's reset (R126), the function port, and the selection guards. -/

namespace Sys2Proof
namespace Machine

/-! ### The buffer -/

/-- R21 `MemRead(a, 1)` on `buf`: the byte at index `a`, none where `a >= len`. -/
def State.readBuf (s : State) (a : Nat) : Option Byte := s.buf[a]?

/-- R21, R88: `MemWrite(len, 1, b)` and `len <- len + 1`, the only store there is. -/
def State.appendBuf (s : State) (b : Byte) : State := { s with buf := s.buf ++ [b] }

/-- R34 (a): the buffer as address and byte pairs, the address of a byte being its index. -/
def State.bufCells (s : State) : List Host.Cell :=
  s.buf.zipIdx.map fun p => (p.2, p.1)

/-- The canonical form of a list of cells: addresses strictly rising. An unlisted address holds no value. -/
def Memory.wf : List Host.Cell → Bool
  | [] => true
  | [_] => true
  | a :: b :: rest => decide (a.1 < b.1) && Memory.wf (b :: rest)

/-- R90, clearing: `len <- 0; ovf <- 0; fsm <- Idle`. -/
def State.clear (s : State) : State := { s with buf := [], ovf := false, fsm := .idle }

/-! ### The output port and the working registers -/

/-- R120: one event leaves through the output port. -/
def State.emit (s : State) (o : OutputEvent) : State := { s with output := s.output ++ [o] }

/-- The working registers as an operation leaves them. -/
def State.setWork (s : State) (w : Work) : State := { s with work := w }

/-- R31: an operation that worked on the working registers is over. They carry nothing on and hold any value (I16), the next
free one, and a `DESTUFF` that was under way on them is not any more. -/
def State.release (s : State) : State :=
  { s with work := Work.free s.freeCount, freeCount := s.freeCount + 1, walking := false }

/-! ### Taking an error

There is no return operation beside it: after the step that took the error the block is already in the state it would be in
after a good frame (R117). -/

/-- R115, entry: emit `Error(kind, cause)`, discard the frame, clear. Nothing is saved and control goes nowhere. -/
def State.takeError (s : State) (r : Raise) : State := (s.emit (.error r.kind r.cause)).clear

/-- R92, R90: a frame that passed: emit `Message(E)` and clear. -/
def State.deliver (s : State) (e : List Byte) : State := (s.emit (.message e)).clear

/-- R92: the outcome of the pipeline as an output event. -/
def outcomeEvent : Except Raise (List Byte) → OutputEvent
  | .ok e => .message e
  | .error r => .error r.kind r.cause

/-! ### The end of the read loop, and reset -/

/-- R95, R96: `fsm <- Stopped` and one event; `buf`, `len`, `ovf` are left as they are. -/
def State.halt (s : State) (o : OutputEvent) : State := { s.emit o with fsm := .stopped }

/-- R126, reset as an action of the caller, possible in every state: the block is as at reset. The parameters are fixed
for the block, what the environment will present next is the environment's, and what has been emitted or given back has
been (log entry 12). -/
def State.restart (s : State) : State :=
  { State.reset with
    params := s.params, pending := s.pending, output := s.output, ret := s.ret, freeCount := s.freeCount }

/-! ### The function port -/

/-- A function-level operation gives its result to its caller and touches nothing else of the block. -/
def State.giveBack (s : State) (r : Ret) : State := { s with ret := some r }

/-- What a function that returns a byte sequence or raises gives back (R21). -/
def Ret.ofBytes : Except Raise (List Byte) → Ret
  | .ok b => .bytes b
  | .error r => .raised r

/-! ### Selection -/

/-- An operation has its effect `t` where the table's condition `sel` selects it. -/
def whenSelected (sel : Bool) (mnemonic : String) (t : State) : Host.Outcome State Fault Refusal :=
  if sel then .next t else .refused (.notSelected mnemonic)

/-- An operation on an input event: in `Stopped` every input event is ignored (R97); otherwise as selected (R86). -/
def State.receive (s : State) (sel : Bool) (mnemonic : String) (t : State) : Host.Outcome State Fault Refusal :=
  if s.fsm = .stopped then .next s else whenSelected sel mnemonic t

end Machine
end Sys2Proof
end

