-- ==== Sys2Proof/Machine/Operands.lean ====
section
/-! DEFINITION. Operand assembly (30_encoding.md R51, 00_scope.md R21): the data bytes a code byte counts, the big-endian
conversions of the checksum, the split of the unstuffed payload. -/

namespace Sys2Proof
namespace Machine

/-- R51 (a): the run length of a COBS block is `code - 1`, taken from all eight bits, unsigned. -/
def runLength (code : Byte) : Nat := code.toNat - 1

/-- R58: the data bytes of the block whose code byte `code` stands at `i`: `s[i+1 : i+code]`. -/
def Work.data (w : Work) (code : Byte) : List Byte :=
  (w.src.drop (w.i + 1)).take (runLength code)

/-- R21 `BE32`: the four bytes of a 32-bit value, most significant first. -/
def be32 (v : Word32) : List Byte :=
  [v.extractLsb' 24 8, v.extractLsb' 16 8, v.extractLsb' 8 8, v.extractLsb' 0 8]

/-- R21, R51 (b) `UBE32`: each byte enters, zero-extended, below the bytes before it. -/
def ube32 (t : List Byte) : Word32 :=
  t.foldl (fun v x => (v <<< 8) ||| x.setWidth 32) 0

/-- R79: the Encoded Message Bytes of a payload, `pay[0 : plen-4]`. -/
def messageBytes (pay : List Byte) : List Byte := pay.take (pay.length - Config.cksumLen)

/-- R79: the Checksum field of a payload, `pay[plen-4 : plen]`. -/
def checksumField (pay : List Byte) : List Byte := pay.drop (pay.length - Config.cksumLen)

end Machine
end Sys2Proof
end

