-- ==== Sys2Proof/Machine/Flags.lean ====
section
/-! DEFINITION. The one flag, `ovf` (R29, R32), and the two conditions the delimiter decodes a byte by (R52). The numeric
codes of R111 are beside them. -/

namespace Sys2Proof
namespace Machine

/-- R52: `len = 0`. -/
def State.bufEmpty (s : State) : Bool := s.buf.isEmpty

/-- R52: `len = BUF_CAP`, never with an unbounded buffer (R25). -/
def State.bufFull (s : State) : Bool :=
  match s.params.bufCap with
  | none => false
  | some cap => decide (cap ≤ s.len)

/-- R93: `ovf <- 1`. The flag is read by `RX.END` (R91) and cleared with the buffer (`State.clear`, R90). -/
def State.setOvf (s : State) : State := { s with ovf := true }

/-- R111: the kind as two bits; 0 is "no error". -/
def ErrorKind.bits : ErrorKind → BitVec 2
  | .framing => 1
  | .integrity => 2
  | .codec => 3

/-- R111: the cause as three bits; 0 is "none". -/
def Cause.bits : Cause → BitVec 3
  | .empty => 1
  | .zeroCode => 2
  | .overrun => 3
  | .zeroData => 4
  | .shortPayload => 5
  | .overflow => 6
  | .crcMismatch => 7

/-- R111: the status field beside the output port for the outcome of a frame; `Exited` and `TransportLost` are no error
kinds (R110) and have none. -/
def OutputEvent.status : OutputEvent → Option (BitVec 2 × BitVec 3)
  | .message _ => some (0, 0)
  | .error k c => some (k.bits, c.bits)
  | .exited => none
  | .transportLost => none

/-- R14: the kind a short payload is reported with. -/
def ErrorKind.ofShort : ShortKind → ErrorKind
  | .framing => .framing
  | .integrity => .integrity

end Machine
end Sys2Proof
end

