-- ==== Sys2Proof/Machine/Cobs.lean ====
section
/-! DEFINITION. The COBS unit (41_cobs.md): the four operations a code byte selects, `DESTUFF`, which is the walk over
them, and `STUFF`. -/

namespace Sys2Proof
namespace Machine

/-! ### One COBS block -/

/-- How the walk stands after a block (R57). -/
inductive WalkEnd where
  /-- `i < n`: another code byte follows. -/
  | goesOn
  /-- `i = n`: `DESTUFF` returns `pay`. -/
  | returns
  /-- `FramingError(cause)` is raised. -/
  | raises (c : Cause)
deriving DecidableEq, Repr

/-- R57, the loop over the data positions: the bytes are copied from offset `k` on; `false` where a zero byte stops it
(R62). -/
def Work.copy : List Byte → Nat → Work → Work × Bool
  | [], _, w => (w, true)
  | x :: xs, k, w =>
    if x = 0x00 then ({ w with k := BitVec.ofNat 8 k }, false)
    else Work.copy xs (k + 1) { w with k := BitVec.ofNat 8 k, pay := w.pay ++ [x] }

/-- R63: `i <- i + code`, and whether the input ends there. -/
def Work.advance (w : Work) (code : Byte) : Work × WalkEnd :=
  if w.i + code.toNat < w.src.length then ({ w with i := w.i + code.toNat }, .goesOn)
  else ({ w with i := w.i + code.toNat }, .returns)

/-- R64: the zero byte a block boundary stands for. -/
def Work.appendZero (w : Work) : Work := { w with pay := w.pay ++ [0x00] }

/-- R60 `COBS.ZERO`. -/
def Work.blockZero (w : Work) : Work × WalkEnd := ({ w with code := 0x00 }, .raises .zeroCode)

/-- R61 `COBS.OVERRUN`: no data byte of the block is read. -/
def Work.blockOverrun (w : Work) (c : Byte) : Work × WalkEnd := ({ w with code := c }, .raises .overrun)

/-- R58 `COBS.RUN`: copy, advance, and append a zero byte unless the input ends there. -/
def Work.blockRun (w : Work) (c : Byte) : Work × WalkEnd :=
  match Work.copy (w.data c) 1 { w with code := c } with
  | (w1, false) => (w1, .raises .zeroData)
  | (w1, true) =>
    match w1.advance c with
    | (w2, .goesOn) => (w2.appendZero, .goesOn)
    | (w2, e) => (w2, e)

/-- R59 `COBS.FULL`: copy 254 bytes and advance; no zero byte. -/
def Work.blockFull (w : Work) : Work × WalkEnd :=
  match Work.copy (w.data Config.codeFull) 1 { w with code := Config.codeFull } with
  | (w1, false) => (w1, .raises .zeroData)
  | (w1, true) => w1.advance Config.codeFull

/-- One pass of `DESTUFF`'s loop at the code byte `c`, by its class (R53). -/
def Work.block (w : Work) (c : Byte) : Work × WalkEnd :=
  match classifyCode (w.src.length - w.i) c with
  | .zero => w.blockZero
  | .overrun => w.blockOverrun c
  | .full => w.blockFull
  | .run => w.blockRun c

/-! ### DESTUFF -/

/-- R57: `pay <- []; i <- 0` for the input `b`. -/
def Work.load (w : Work) (b : List Byte) : Work := { w with src := b, i := 0, pay := [] }

/-- R57, the loop. `fuel` bounds the number of passes; `n` of them are enough, since every block advances `i` by at least
one (R63). -/
def Work.walk : Nat → Work → Work × WalkEnd
  | 0, w => (w, .returns)
  | fuel + 1, w =>
    match w.src[w.i]? with
    | none => (w, .returns)
    | some c =>
      match w.block c with
      | (w1, .goesOn) => Work.walk fuel w1
      | (w1, e) => (w1, e)

/-- R57 `DESTUFF` as a function of its operand; the empty input is rejected first (R65). The walk starts from the registers
that `load` initialises and writes `code` and `k` before it reads them, so the rest of the record has no part in it. -/
def destuff (b : List Byte) : Except Raise (List Byte) :=
  if b.isEmpty then .error { kind := .framing, cause := .empty }
  else
    match Work.walk b.length (Work.reset.load b) with
    | (_, .raises c) => .error { kind := .framing, cause := c }
    | (w, _) => .ok w.pay

/-! ### STUFF -/

/-- R68: the input cut at every zero byte. -/
def segments : List Byte → List (List Byte)
  | [] => [[]]
  | x :: xs =>
    match segments xs with
    | [] => [[x]]
    | g :: gs => if x = 0x00 then [] :: g :: gs else (x :: g) :: gs

/-- R68: a block, its code being run length + 1. -/
def cobsBlock (g : List Byte) : List Byte := BitVec.ofNat 8 (g.length + 1) :: g

/-- R68 `SEG`. `fuel` bounds the recursion; the segment's length is enough. -/
def segFuel : Nat → List Byte → Bool → List Byte
  | 0, g, _ => cobsBlock g
  | fuel + 1, g, last =>
    if g.length < Config.maxRun then cobsBlock g
    else if g.length = Config.maxRun ∧ last = true then Config.codeFull :: g
    else (Config.codeFull :: g.take Config.maxRun) ++ segFuel fuel (g.drop Config.maxRun) last

/-- R68 `SEG(g, last)`. -/
def seg (g : List Byte) (last : Bool) : List Byte := segFuel g.length g last

/-- R68: the segments' stuffed forms, the last one marked as last. -/
def stuffSegments : List (List Byte) → List Byte
  | [] => []
  | [g] => seg g true
  | g :: gs => seg g false ++ stuffSegments gs

/-- R68 `STUFF`. -/
def stuff (b : List Byte) : List Byte := stuffSegments (segments b)

/-- R68, the equivalent one-pass form: `pend` is the data of the pending block. -/
def stuffPass (pend : List Byte) : List Byte → List Byte
  | [] => cobsBlock pend
  | x :: xs =>
    if x = 0x00 then cobsBlock pend ++ stuffPass [] xs
    else if pend.length + 1 = Config.maxRun then
      if xs.isEmpty then cobsBlock (pend ++ [x]) else cobsBlock (pend ++ [x]) ++ stuffPass [] xs
    else stuffPass (pend ++ [x]) xs

/-! ### The meanings -/

/-- A block run as an operation of its own: the walk goes on, or the `DESTUFF` it belongs to gives back its result. -/
def State.endBlock (s : State) (r : Work × WalkEnd) : State :=
  match r with
  | (w, .goesOn) => s.setWork w
  | (w, .returns) => s.release.giveBack (.bytes w.pay)
  | (_, .raises c) => s.release.giveBack (.raised { kind := .framing, cause := c })

/-- The condition `i + c <= n` of R53 on the working registers. -/
def Work.fits (w : Work) (c : Byte) : Bool := decide (w.i + c.toNat ≤ w.src.length)

/-- `COBS.ZERO` (R60), in any state. -/
def execCobsZero (s : State) : Host.Outcome State Fault Refusal :=
  .next (s.endBlock s.work.blockZero)

/-- `COBS.RUN` (R58), for `c` in `0x01..0xFE` with `i + c <= n`. -/
def execCobsRun (c : Byte) (s : State) : Host.Outcome State Fault Refusal :=
  whenSelected (c != 0x00 && c != Config.codeFull && s.work.fits c) "COBS.RUN" (s.endBlock (s.work.blockRun c))

/-- `COBS.FULL` (R59), with `i + 255 <= n`. -/
def execCobsFull (s : State) : Host.Outcome State Fault Refusal :=
  whenSelected (s.work.fits Config.codeFull) "COBS.FULL" (s.endBlock s.work.blockFull)

/-- `COBS.OVERRUN` (R61), for `c` in `0x01..0xFF` with `i + c > n`. -/
def execCobsOverrun (c : Byte) (s : State) : Host.Outcome State Fault Refusal :=
  whenSelected (c != 0x00 && !s.work.fits c) "COBS.OVERRUN" (s.endBlock (s.work.blockOverrun c))

/-- `DESTUFF` (R57). -/
def execDestuff (b : List Byte) (s : State) : Host.Outcome State Fault Refusal :=
  .next (s.release.giveBack (Ret.ofBytes (destuff b)))

/-- `STUFF` (R68): it has no working register. -/
def execStuff (b : List Byte) (s : State) : Host.Outcome State Fault Refusal :=
  .next (s.giveBack (.bytes (stuff b)))

end Machine
end Sys2Proof
end

