-- ==== Sys2Proof/Machine/Crc.lean ====
section
/-! DEFINITION. The CRC32 integrity checker (42_crc32.md): `CRC32.BYTE`, `CRC32`, `VERIFY`, `CHECK`. -/

namespace Sys2Proof
namespace Machine

/-- R73: one pass of the loop body. -/
def crcShift (crc : Word32) : Word32 :=
  if crc.getLsbD 0 then (crc >>> 1) ^^^ Config.crcPoly else crc >>> 1

/-- R73, "repeat 8 times" (`n = 8`). -/
def crcShifts : Nat → Word32 → Word32
  | 0, crc => crc
  | n + 1, crc => crcShifts n (crcShift crc)

/-- R73 `CRC32.BYTE`. -/
def crcByte (crc : Word32) (x : Byte) : Word32 := crcShifts 8 (crc ^^^ x.setWidth 32)

/-- The CRC register after the bytes `b`, from `crc`. -/
def crcFold (crc : Word32) (b : List Byte) : Word32 := b.foldl crcByte crc

/-- R72: the register at the end of `CRC32`'s loop. -/
def crcRegister (b : List Byte) : Word32 := crcFold Config.crcInit b

/-- R72 `CRC32`. -/
def crc32 (b : List Byte) : Word32 := crcRegister b ^^^ Config.crcXorOut

/-- R76 `CRC32.raw`: initial value 0 and final XOR 0. -/
def crc32Raw (b : List Byte) : Word32 := crcFold 0 b

/-- R74: the table entry `T[v]`. -/
def crcTable (v : Byte) : Word32 := crcShifts 8 (v.setWidth 32)

/-- R77 `VERIFY`. -/
def verify (b : List Byte) (x : Word32) : Bool := decide (crc32 b = x)

/-- R80 `CHECK`, the length test first (R79). -/
def check (short : ShortKind) (pay : List Byte) : Except Raise (List Byte) :=
  if pay.length < Config.cksumLen then .error { kind := ErrorKind.ofShort short, cause := .shortPayload }
  else if verify (messageBytes pay) (ube32 (checksumField pay)) then .ok (messageBytes pay)
  else .error { kind := .integrity, cause := .crcMismatch }

/-- `CRC32.BYTE` (R73): the CRC shift register takes the operand and is updated; its value is the result. -/
def execCrc32Byte (crc : Word32) (x : Byte) (s : State) : Host.Outcome State Fault Refusal :=
  .next ((s.setWork { s.work with crc := crcByte crc x }).giveBack (.word (crcByte crc x)))

/-- `CRC32` (R72). -/
def execCrc32 (b : List Byte) (s : State) : Host.Outcome State Fault Refusal :=
  .next (s.release.giveBack (.word (crc32 b)))

/-- `VERIFY` (R77): a mismatch is the result `false`, not a raise. -/
def execVerify (b : List Byte) (x : Word32) (s : State) : Host.Outcome State Fault Refusal :=
  .next (s.release.giveBack (.flag (verify b x)))

/-- `CHECK` (R80). -/
def execCheck (pay : List Byte) (s : State) : Host.Outcome State Fault Refusal :=
  .next (s.release.giveBack (Ret.ofBytes (check s.params.shortKind pay)))

end Machine
end Sys2Proof
end

