-- ==== Sys2Proof/Machine/Pipeline.lean ====
section
/-! DEFINITION. The receive pipeline (44_frame_reader.md R91, R92, R98): `PIPELINE` and `READ`. -/

namespace Sys2Proof
namespace Machine

/-- R91 `PIPELINE`: de-stuff, then check; the first raise ends it (R114). -/
def pipeline (short : ShortKind) (b : List Byte) : Except Raise (List Byte) :=
  match destuff b with
  | .error r => .error r
  | .ok pay => check short pay

/-- R98 `READ` of a pipeline's outcome: a raise of the pipeline abandons `READ` too (R21; log entry 13), and a codec that
refuses gives a `CodecError` (R107). -/
def readOutcome (c : Codec) : Except Raise (List Byte) → Ret
  | .error r => .raised r
  | .ok e =>
    match c.decode e with
    | some m => .message m
    | none => .codecError

/-- R98 `READ(s)`. -/
def readResult (c : Codec) (short : ShortKind) (b : List Byte) : Ret := readOutcome c (pipeline short b)

/-- `PIPELINE` (R91) on its own: its outcome, as an event, goes back to the caller (log entry 16). -/
def execPipeline (b : List Byte) (s : State) : Host.Outcome State Fault Refusal :=
  .next (s.release.giveBack (.event (outcomeEvent (pipeline s.params.shortKind b))))

/-- `READ` (R98). -/
def execRead (b : List Byte) (s : State) : Host.Outcome State Fault Refusal :=
  .next (s.release.giveBack (readResult Config.codec s.params.shortKind b))

end Machine
end Sys2Proof
end

