-- ==== Sys2Proof/Machine/Receiver.lean ====
section
/-! DEFINITION. The frame delimiter (44_frame_reader.md): the operations an input event selects. In `Stopped` every one of
them is ignored (R97). -/

namespace Sys2Proof
namespace Machine

/-- R91, R92: run the pipeline on the buffer, emit its outcome, clear, all in one step. An overflowed frame is reported
without running the pipeline (R93). -/
def State.closeFrame (s : State) : State :=
  match s.ovf with
  | true => s.takeError { kind := .framing, cause := .overflow }
  | false =>
    match pipeline s.params.shortKind s.buf with
    | .ok e => s.release.deliver e
    | .error r => s.release.takeError r

/-- `RX.IDLE` (R89): nothing is written and nothing emitted. -/
def execRxIdle (s : State) : Host.Outcome State Fault Refusal :=
  s.receive s.bufEmpty "RX.IDLE" s

/-- `RX.END` (R91). -/
def execRxEnd (s : State) : Host.Outcome State Fault Refusal :=
  s.receive (!s.bufEmpty) "RX.END" s.closeFrame

/-- `RX.ACCUM` (R88). -/
def execRxAccum (b : Byte) (s : State) : Host.Outcome State Fault Refusal :=
  s.receive (b != Config.sentinel && !s.bufFull) "RX.ACCUM" { s.appendBuf b with fsm := .accumulating }

/-- `RX.OVF` (R93): the byte is dropped. -/
def execRxOvf (b : Byte) (s : State) : Host.Outcome State Fault Refusal :=
  s.receive (b != Config.sentinel && s.bufFull) "RX.OVF" s.setOvf

/-- `RX.TIMEOUT` (R94): no register is written, no event emitted. -/
def execRxTimeout (s : State) : Host.Outcome State Fault Refusal :=
  s.receive true "RX.TIMEOUT" s

/-- `RX.STOP` (R95). -/
def execRxStop (s : State) : Host.Outcome State Fault Refusal :=
  s.receive true "RX.STOP" (s.halt .exited)

/-- `RX.LOST` (R96). -/
def execRxLost (s : State) : Host.Outcome State Fault Refusal :=
  s.receive true "RX.LOST" (s.halt .transportLost)

end Machine
end Sys2Proof
end

