-- ==== Sys2Proof/Machine/Writer.lean ====
section
/-! DEFINITION. The frame-writer datapath (45_frame_writer.md): `WRITE_E` and `WRITE`, pure functions without state. -/

namespace Sys2Proof
namespace Machine

/-- R99: the unstuffed payload of `E`. -/
def payloadOf (e : List Byte) : List Byte := e ++ be32 (crc32 e)

/-- R99 `WRITE_E`. -/
def writeE (e : List Byte) : List Byte :=
  [Config.sentinel] ++ stuff (payloadOf e) ++ [Config.sentinel]

/-- R101 `WRITE` for a codec. -/
def writeMessage (c : Codec) (m : Message) : List Byte := writeE (c.encode m)

/-- `WRITE_E` (R99). It evaluates one checksum. -/
def execWriteE (e : List Byte) (s : State) : Host.Outcome State Fault Refusal :=
  .next (s.release.giveBack (.bytes (writeE e)))

/-- `WRITE` (R101). -/
def execWrite (m : Message) (s : State) : Host.Outcome State Fault Refusal :=
  .next (s.release.giveBack (.bytes (writeMessage Config.codec m)))

end Machine
end Sys2Proof
end

