-- ==== Sys2Proof/Machine/Dispatch.lean ====
section
/-! DEFINITION. One arm for each operation. -/

namespace Sys2Proof
namespace Machine

def exec (i : Instr) (s : State) : Host.Outcome State Fault Refusal :=
  match i with
  | .rxIdle => Sys2Proof.Machine.execRxIdle s
  | .rxEnd => Sys2Proof.Machine.execRxEnd s
  | .rxAccum b => Sys2Proof.Machine.execRxAccum b s
  | .rxOvf b => Sys2Proof.Machine.execRxOvf b s
  | .rxTimeout => Sys2Proof.Machine.execRxTimeout s
  | .rxStop => Sys2Proof.Machine.execRxStop s
  | .rxLost => Sys2Proof.Machine.execRxLost s
  | .cobsZero => Sys2Proof.Machine.execCobsZero s
  | .cobsRun c => Sys2Proof.Machine.execCobsRun c s
  | .cobsFull => Sys2Proof.Machine.execCobsFull s
  | .cobsOverrun c => Sys2Proof.Machine.execCobsOverrun c s
  | .destuff b => Sys2Proof.Machine.execDestuff b s
  | .stuff b => Sys2Proof.Machine.execStuff b s
  | .crc32 b => Sys2Proof.Machine.execCrc32 b s
  | .crc32Byte crc x => Sys2Proof.Machine.execCrc32Byte crc x s
  | .verify b x => Sys2Proof.Machine.execVerify b x s
  | .check pay => Sys2Proof.Machine.execCheck pay s
  | .pipeline b => Sys2Proof.Machine.execPipeline b s
  | .read b => Sys2Proof.Machine.execRead b s
  | .writeE e => Sys2Proof.Machine.execWriteE e s
  | .write m => Sys2Proof.Machine.execWrite m s

end Machine
end Sys2Proof
end

