-- ==== Sys2Proof/Machine/Fetch.lean ====
section
/-! DEFINITION. Which operation the next thing the environment presents selects (R52, R53, R86), and what an action that is
no operation does. -/

namespace Sys2Proof
namespace Machine

/-- The call of a function-level operation as the operation. -/
def Fn.toInstr : Fn → Instr
  | .destuff s => .destuff s
  | .stuff b => .stuff b
  | .crc32 b => .crc32 b
  | .crc32Byte crc x => .crc32Byte crc x
  | .verify b x => .verify b x
  | .check pay => .check pay
  | .pipeline s => .pipeline s
  | .read s => .read s
  | .writeE e => .writeE e
  | .write m => .write m

/-- R52: where a received byte stands in the state `s`. -/
def State.rxSlot (s : State) : Slot := .rx s.bufEmpty s.bufFull

/-- R53: where the byte at the index `i` of the working registers stands. -/
def Work.codeSlot (w : Work) : Slot := .code (w.src.length - w.i)

/-- Decoding where one operation is wanted. -/
def decodeOne (slot : Slot) (bytes : List Byte) : Option Instr :=
  match decode slot bytes with
  | .ok (i, _) => some i
  | .error _ => none

/-- R86: the operation an input event selects. -/
def State.eventInstr (s : State) : InputEvent → Option Instr
  | .byte b => decodeOne s.rxSlot [b]
  | .timeout => some .rxTimeout
  | .stop => some .rxStop
  | .lost => some .rxLost

/-- The operation an action selects in the state `s`; none for an action that is no operation. -/
def State.instrOf (s : State) : Action → Option Instr
  | .event e => s.eventInstr e
  | .reset => none
  | .beginWalk _ => none
  | .walkBlock => if s.walking then decodeOne s.work.codeSlot (s.work.src.drop s.work.i) else none
  | .call f => some f.toInstr

/-- What an action that is no operation does: the caller's reset (R126), and the beginning of a `DESTUFF` (R57, where the
empty input is rejected, R65). Asking for a block when no `DESTUFF` is under way does nothing. -/
def State.hostAct (s : State) : Action → State
  | .reset => s.restart
  | .beginWalk b =>
    if b.isEmpty then s.release.giveBack (.raised { kind := .framing, cause := .empty })
    else { s.setWork (s.work.load b) with walking := true }
  | .event _ => s
  | .walkBlock => s
  | .call _ => s

/-- R42: what is presented is consumed, once. -/
def State.consume (s : State) (rest : List Action) : State := { s with pending := rest }

end Machine
end Sys2Proof
end

