-- ==== Sys2Proof/Machine/Step.lean ====
section
/-! DEFINITION. One step of the block (R18): it takes the next thing the environment presents and runs the operation that
selects, to completion (R43). With nothing presented the block waits and all state survives the wait (R125). -/

namespace Sys2Proof
namespace Machine

def step (s : State) : Host.Outcome State Fault Refusal :=
  match s.pending with
  | [] => .next s
  | a :: rest =>
    match (s.consume rest).instrOf a with
    | some i => exec i (s.consume rest)
    | none => .next ((s.consume rest).hostAct a)

/-- A word of one byte presented as the next input event. The formats EVENT and FUNCTION have no bits, so there is no word
of another size to present (log entry 11). -/
def State.withFetchWord (s : State) (nbits w : Nat) : State :=
  if nbits = 8 then { s with pending := .event (.byte (BitVec.ofNat 8 w)) :: s.pending } else s

end Machine
end Sys2Proof
end

