-- ==== Sys2Proof/Safety.lean ====
section
/-! DEFINITION. What claims call a good state and a good run. -/

namespace Sys2Proof
namespace Machine

/-- The invariant of the block: `BUF_CAP >= 1` (R13); no element of `buf` is the sentinel (R26); `len <= BUF_CAP` (R24);
`fsm = Idle` exactly when `len = 0`, while not `Stopped` (R27); `ovf` is set only with a finite `BUF_CAP` and a full buffer
(R29). -/
abbrev State.Inv (s : State) : Prop :=
  s.params.wf = true ∧ Config.sentinel ∉ s.buf ∧ (∀ cap ∈ s.params.bufCap, s.len ≤ cap) ∧
    (s.fsm ≠ .stopped → (s.fsm = .idle ↔ s.len = 0)) ∧ (s.ovf = true → s.bufFull = true)

/-- R128: Idle, empty buffer, `ovf = 0`. -/
abbrev State.synced (s : State) : Prop :=
  s.fsm = .idle ∧ s.buf = [] ∧ s.ovf = false

/-- The buffer has room for a frame of `n` stuffed bytes (R93, R134). -/
abbrev State.roomFor (s : State) (n : Nat) : Prop :=
  ∀ cap ∈ s.params.bufCap, n ≤ cap

/-- The persistent state of the block, its parameters and both of its ports are the same in `s` and `t`; only the working
registers and the caller's side of the functions may differ (R6, R75). -/
abbrev State.sameBlock (s t : State) : Prop :=
  t.params = s.params ∧ t.fsm = s.fsm ∧ t.buf = s.buf ∧ t.ovf = s.ovf ∧ t.pending = s.pending ∧ t.output = s.output

/-- The state after an operation on the working registers is over and has given back `r`: they hold `w`, one free value more
is used, and no `DESTUFF` is under way on them (R31, log entries 5, 7 and 8). Everything else is as before. -/
abbrev State.afterCall (s : State) (w : Work) (r : Ret) : State :=
  { s with work := w, freeCount := s.freeCount + 1, walking := false, ret := some r }

/-- The byte events of a byte sequence, in stream order (R40). -/
def feed (b : List Byte) : List Action := b.map fun x => .event (.byte x)

/-- What robustness (R98) speaks of: `Byte` and `Timeout` events. -/
def InputEvent.harmless : InputEvent → Bool
  | .byte _ => true
  | .timeout => true
  | .stop => false
  | .lost => false

/-- R50, the Stuffed Payload format: one or more COBS blocks, each a code byte `c` followed by exactly `c - 1` data bytes,
none of them zero. -/
inductive StuffedPayload : List Byte → Prop where
  | last (c : Byte) (d : List Byte) : c ≠ 0 → d.length + 1 = c.toNat → 0 ∉ d → StuffedPayload (c :: d)
  | more (c : Byte) (d rest : List Byte) : c ≠ 0 → d.length + 1 = c.toNat → 0 ∉ d → StuffedPayload rest →
      StuffedPayload (c :: d ++ rest)

/-- R67: the stuffed form of `b` ends with a full block, that is, the bytes after the last zero of `b` are a positive
multiple of 254 in number. -/
def endsFull (b : List Byte) : Bool :=
  match (segments b).getLast? with
  | none => false
  | some g => decide (0 < g.length) && decide (g.length % Config.maxRun = 0)

/-- R81: bit `q` of the byte at index `j` inverted. -/
def flipBit (e : List Byte) (j q : Nat) : List Byte := e.modify j fun x => x ^^^ BitVec.twoPow 8 q

end Machine
end Sys2Proof
end

