-- ==== Sys2Proof/Certificates/Slice0/Obligations.lean ====
section
/-! DEFINITION. The statements for the provers. A docstring names the rule of spec/ a statement formalises, and, where a
clause rests on a decision of the spec (D<n> of 92_eei_decisions.md, G<n> of 93_implementation_defined.md) or of the model
(a log entry), says so. A function-level operation gives its result to its caller in the field `ret`, and a `DESTUFF` walked
block by block is under way while `walking` is set: both fields are the model's (log entries 7 and 8). After an operation
that is over the working registers hold any value and one free value more is used (log entry 5), and no walk is under way
(log entry 7): these clauses, and `State.afterCall` which says them, are the model's, and the statements say that there is
a value the registers hold, and not which. Three kinds of statement do name a working register, each as its docstring says:
a block of a walk that goes on (`code`, `i`, `pay`), `CRC32.BYTE` (`crc`, log entry 19) and the caller's reset (log
entries 5 and 12). -/

open Sys2Proof Sys2Proof.Machine

/-! ### Encoding -/

/-- 30_encoding.md section 3: decoding an encoded well-formed operation gives it back, with every operand byte, wherever its
condition selects it; the bytes after it are left alone. -/
def Obligations.EncodedOperationDecodesBack : Prop :=
  ∀ (slot : Slot) (i : Instr) (rest : List Byte), i.wf = true → i.selectedBy slot = true →
    decode slot (encode i ++ rest) = .ok (i, rest)

/-- 30_encoding.md section 4: every one of the 256 byte values has a meaning in every place, and only one. -/
def Obligations.EveryByteSelectsExactlyOneOperation : Prop :=
  ∀ (slot : Slot) (b : Byte) (rest : List Byte), ∃ i : Instr,
    decode slot (b :: rest) = .ok (i, rest) ∧ encode i = [b] ∧ i.wf = true ∧ i.selectedBy slot = true ∧
      ∀ j : Instr, j.wf = true → j.selectedBy slot = true → encode j = [b] → j = i

/-- 30_encoding.md section 3, words written out from its two tables. -/
def Obligations.SpecWordsDecodeAsListed : Prop :=
  decode (.rx true false) [0b00000000] = .ok (.rxIdle, []) ∧
  decode (.rx false false) [0b00000000] = .ok (.rxEnd, []) ∧
  decode (.rx true false) [0b00001011] = .ok (.rxAccum 0x0B, []) ∧
  decode (.rx false true) [0b11110100] = .ok (.rxOvf 0xF4, []) ∧
  decode (.code 1) [0b00000000] = .ok (.cobsZero, []) ∧
  decode (.code 5) [0b00000011] = .ok (.cobsRun 0x03, []) ∧
  decode (.code 255) [0b11111111] = .ok (.cobsFull, []) ∧
  decode (.code 254) [0b11111111] = .ok (.cobsOverrun 0xFF, []) ∧
  decode (.code 2) [0b01000001] = .ok (.cobsOverrun 0x41, [])

/-- 20_memory.md section 3, 44_frame_reader.md section 1: a step consumes what is presented next and runs the operation it
selects on the state without it. What is presented stands in `pending` (log entry 1), the block-by-block walk and the calls
are the model's (log entries 7 and 8). -/
def Obligations.StepRunsTheSelectedOperation : Prop :=
  (∀ (s : State) (b : Byte) (rest : List Action) (i : Instr), s.pending = .event (.byte b) :: rest →
    decode (.rx s.bufEmpty s.bufFull) [b] = .ok (i, []) → step s = exec i { s with pending := rest }) ∧
  (∀ (s : State) (rest : List Action), s.pending = .event .timeout :: rest →
    step s = exec .rxTimeout { s with pending := rest }) ∧
  (∀ (s : State) (rest : List Action), s.pending = .event .stop :: rest →
    step s = exec .rxStop { s with pending := rest }) ∧
  (∀ (s : State) (rest : List Action), s.pending = .event .lost :: rest →
    step s = exec .rxLost { s with pending := rest }) ∧
  (∀ (s : State) (rest : List Action) (i : Instr) (tail : List Byte), s.pending = .walkBlock :: rest →
    s.walking = true → decode (.code (s.work.src.length - s.work.i)) (s.work.src.drop s.work.i) = .ok (i, tail) →
    step s = exec i { s with pending := rest }) ∧
  (∀ (s : State) (rest : List Action) (f : Fn), s.pending = .call f :: rest →
    step s = exec f.toInstr { s with pending := rest }) ∧
  (∀ s : State, s.pending = [] → step s = .next s)

/-! ### The frame delimiter -/

/-- R88. -/
def Obligations.AccumAppendsTheByte : Prop :=
  ∀ (s : State) (b : Byte), s.fsm ≠ .stopped → b ≠ 0x00 → (∀ cap ∈ s.params.bufCap, s.len < cap) →
    exec (.rxAccum b) s = .next { s with buf := s.buf ++ [b], fsm := .accumulating } ∧
      State.len { s with buf := s.buf ++ [b], fsm := .accumulating } = s.len + 1

/-- R89. -/
def Obligations.IdleMarkerChangesNothing : Prop :=
  ∀ s : State, s.fsm ≠ .stopped → s.len = 0 → exec .rxIdle s = .next s

/-- 44_frame_reader.md section 2 (`RX.END`): a frame that did not overflow gives exactly the pipeline's outcome; nothing but
the buffer, the flag, the reader state, the output and the working registers changes (with the model's `walking` and
free-value count, log entries 5 and 7). -/
def Obligations.EndOfFrameEmitsTheOutcome : Prop :=
  ∀ s : State, s.fsm ≠ .stopped → 0 < s.len → s.ovf = false →
    ∃ (w : Work) (o : OutputEvent),
      exec .rxEnd s = .next { s with
        buf := [], ovf := false, fsm := .idle, output := s.output ++ [o],
        work := w, freeCount := s.freeCount + 1, walking := false } ∧
      (∀ e, pipeline s.params.shortKind s.buf = .ok e → o = .message e) ∧
      (∀ r, pipeline s.params.shortKind s.buf = .error r → o = .error r.kind r.cause)

/-- R90: at the end of every `RX.END`, whatever its outcome, the buffer and the flag are cleared and the reader is Idle, in
the step that emits the one event. -/
def Obligations.EveryEndOfFrameClears : Prop :=
  ∀ s : State, s.fsm ≠ .stopped → 0 < s.len →
    ∃ t : State, exec .rxEnd s = .next t ∧ t.len = 0 ∧ t.ovf = false ∧ t.fsm = .idle ∧
      ∃ o : OutputEvent, t.output = s.output ++ [o]

/-- 44_frame_reader.md section 2 (`RX.OVF`), decision D4: the byte is dropped and the flag set; at the closing sentinel an
overflowed frame is reported without running the pipeline. -/
def Obligations.OverflowDropsAndIsReported : Prop :=
  (∀ (s : State) (b : Byte), s.fsm ≠ .stopped → b ≠ 0x00 → (∃ cap ∈ s.params.bufCap, s.len = cap) →
    exec (.rxOvf b) s = .next { s with ovf := true }) ∧
  (∀ s : State, s.fsm ≠ .stopped → 0 < s.len → s.ovf = true →
    exec .rxEnd s = .next { s with
      buf := [], ovf := false, fsm := .idle,
      output := s.output ++ [.error .framing .overflow] })

/-- R94. -/
def Obligations.TimeoutChangesNothing : Prop :=
  ∀ s : State, s.fsm ≠ .stopped → exec .rxTimeout s = .next s

/-- 44_frame_reader.md section 3 (`RX.STOP`, `RX.LOST`), decision D10: `fsm` and one event; the partial frame stays. -/
def Obligations.StopAndLostHaltTheReader : Prop :=
  ∀ s : State, s.fsm ≠ .stopped →
    exec .rxStop s = .next { s with fsm := .stopped, output := s.output ++ [.exited] } ∧
    exec .rxLost s = .next { s with fsm := .stopped, output := s.output ++ [.transportLost] }

/-- 44_frame_reader.md section 3, decision D10: in `Stopped` every input event is consumed and ignored. -/
def Obligations.StoppedIgnoresEveryEvent : Prop :=
  ∀ (s : State) (e : InputEvent) (rest : List Action), s.fsm = .stopped → s.pending = .event e :: rest →
    step s = .next { s with pending := rest }

/-- Log entry 9 (the model's choice): a byte-selected operation given to `exec` where the table's condition does not select
it is refused by name. -/
def Obligations.UnselectedOperationIsRefused : Prop :=
  (∀ s : State, s.fsm ≠ .stopped → 0 < s.len → exec .rxIdle s = .refused (.notSelected "RX.IDLE")) ∧
  (∀ s : State, s.fsm ≠ .stopped → s.len = 0 → exec .rxEnd s = .refused (.notSelected "RX.END")) ∧
  (∀ (s : State) (b : Byte), s.fsm ≠ .stopped → (b = 0x00 ∨ ∃ cap ∈ s.params.bufCap, cap ≤ s.len) →
    exec (.rxAccum b) s = .refused (.notSelected "RX.ACCUM")) ∧
  (∀ (s : State) (b : Byte), s.fsm ≠ .stopped → (b = 0x00 ∨ ∀ cap ∈ s.params.bufCap, s.len < cap) →
    exec (.rxOvf b) s = .refused (.notSelected "RX.OVF")) ∧
  (∀ (s : State) (c : Byte), (c = 0x00 ∨ c = 0xFF ∨ s.work.src.length < s.work.i + c.toNat) →
    exec (.cobsRun c) s = .refused (.notSelected "COBS.RUN")) ∧
  (∀ s : State, s.work.src.length < s.work.i + 255 → exec .cobsFull s = .refused (.notSelected "COBS.FULL")) ∧
  (∀ (s : State) (c : Byte), (c = 0x00 ∨ s.work.i + c.toNat ≤ s.work.src.length) →
    exec (.cobsOverrun c) s = .refused (.notSelected "COBS.OVERRUN"))

/-! ### The COBS unit -/

/-- 41_cobs.md section 1 (`COBS.RUN`; the implied zero is general knowledge G1): the `c - 1` data bytes are copied, the
index moves by `c`, and a zero byte follows unless the input ends there, where `DESTUFF` returns. Nothing of the block
changes. That a block is a step of its own, and what the return does to `walking` and the free-value count, are the
model's (log entries 5 and 7). -/
def Obligations.RunCopiesItsDataAndImpliesAZero : Prop :=
  ∀ (s : State) (c : Byte) (d : List Byte), c ≠ 0x00 → c ≠ 0xFF → s.work.i + c.toNat ≤ s.work.src.length →
    d = (s.work.src.drop (s.work.i + 1)).take (c.toNat - 1) → 0x00 ∉ d →
    ∃ (k : Byte) (w : Work),
      (s.work.i + c.toNat < s.work.src.length →
        exec (.cobsRun c) s = .next { s with work := { s.work with
          code := c, k := k, i := s.work.i + c.toNat, pay := s.work.pay ++ d ++ [0x00] } }) ∧
      (s.work.i + c.toNat = s.work.src.length →
        exec (.cobsRun c) s = .next (s.afterCall w (.bytes (s.work.pay ++ d))))

/-- 41_cobs.md section 1 (`COBS.FULL`; general knowledge G1): the 254 data bytes are copied, the index moves by 255, and no
zero byte follows, whether or not more input does. That a block is a step of its own, and what the return does to `walking`
and the free-value count, are the model's (log entries 5 and 7). -/
def Obligations.FullBlockCopies254BytesAndNoZero : Prop :=
  ∀ (s : State) (d : List Byte), s.work.i + 255 ≤ s.work.src.length →
    d = (s.work.src.drop (s.work.i + 1)).take 254 → 0x00 ∉ d →
    d.length = 254 ∧ ∃ (k : Byte) (w : Work),
      (s.work.i + 255 < s.work.src.length →
        exec .cobsFull s = .next { s with work := { s.work with
          code := 0xFF, k := k, i := s.work.i + 255, pay := s.work.pay ++ d } }) ∧
      (s.work.i + 255 = s.work.src.length →
        exec .cobsFull s = .next (s.afterCall w (.bytes (s.work.pay ++ d))))

/-- 41_cobs.md section 1 (`COBS.ZERO`), decision D7: in every state, and nothing of the payload is delivered. What
`State.afterCall` says of `walking` and of the free-value count is the model's (log entries 5 and 7). -/
def Obligations.ZeroCodeRaises : Prop :=
  ∀ s : State, ∃ w : Work, exec .cobsZero s = .next (s.afterCall w (.raised ⟨.framing, .zeroCode⟩))

/-- 41_cobs.md section 1 (`COBS.OVERRUN`): a code byte that points past the end of the input makes `DESTUFF` raise, the
spec's `raise FramingError(OVERRUN)`. What
`State.afterCall` says of `walking` and of the free-value count is the model's (log entries 5 and 7). -/
def Obligations.OverrunRaises : Prop :=
  ∀ (s : State) (c : Byte), c ≠ 0x00 → s.work.src.length < s.work.i + c.toNat →
    ∃ w : Work, exec (.cobsOverrun c) s = .next (s.afterCall w (.raised ⟨.framing, .overrun⟩))

/-- 41_cobs.md section 1 (a zero byte at a data position), decision D7, for both blocks that have data. What
`State.afterCall` says of `walking` and of the free-value count is the model's (log entries 5 and 7). -/
def Obligations.ZeroDataRaises : Prop :=
  (∀ (s : State) (c : Byte), c ≠ 0x00 → c ≠ 0xFF → s.work.i + c.toNat ≤ s.work.src.length →
    0x00 ∈ (s.work.src.drop (s.work.i + 1)).take (c.toNat - 1) →
    ∃ w : Work, exec (.cobsRun c) s = .next (s.afterCall w (.raised ⟨.framing, .zeroData⟩))) ∧
  (∀ s : State, s.work.i + 255 ≤ s.work.src.length →
    0x00 ∈ (s.work.src.drop (s.work.i + 1)).take 254 →
    ∃ w : Work, exec .cobsFull s = .next (s.afterCall w (.raised ⟨.framing, .zeroData⟩)))

/-- 41_cobs.md section 1 (`DESTUFF`): in every state it gives back its payload or its raise, which depend on the operand
alone; the block is left alone. The empty input is rejected (D6) and the stuffed form of nothing gives nothing.
What `State.afterCall` says of `walking` and of the free-value count is the model's (log entries 5 and 7). -/
def Obligations.DestuffGivesBackPayloadOrRaise : Prop :=
  (∀ (s : State) (b : List Byte), ∃ w : Work,
    (∀ pay, destuff b = .ok pay → exec (.destuff b) s = .next (s.afterCall w (.bytes pay))) ∧
    (∀ r, destuff b = .error r →
      r.kind = .framing ∧ exec (.destuff b) s = .next (s.afterCall w (.raised r)))) ∧
  destuff [] = .error ⟨.framing, .empty⟩ ∧ destuff [0x01] = .ok []

/-- 41_cobs.md section 1: `DESTUFF` is its blocks run one after another, each decoded at the index the one before it left:
beginning it and running at most `n` blocks gives back what `DESTUFF` gives back, and the block is left alone (the walk's
steps are the model's, log entry 7). -/
def Obligations.DestuffIsItsBlocksOneByOne : Prop :=
  ∀ (s : State) (b : List Byte) (rest : List Action), b ≠ [] →
    ∃ (k : Nat) (t : State), 1 ≤ k ∧ k ≤ b.length ∧
      Host.Core.run core (k + 1) { s with pending := .beginWalk b :: (List.replicate k .walkBlock ++ rest) } =
        .next t ∧
      t.walking = false ∧ t.ret = some (Ret.ofBytes (destuff b)) ∧ State.sameBlock { s with pending := rest } t

/-- R70. -/
def Obligations.DestuffUndoesStuff : Prop :=
  ∀ b : List Byte, destuff (stuff b) = .ok b ∧ 0x00 ∉ stuff b

/-- 41_cobs.md section 1 (accepted set), decision D8: what de-stuffs to `b` is the stuffed form of `b`, and, where that ends
with a full block, the same with one more `0x01`; nothing else. -/
def Obligations.DestuffPreimagesOfAPayload : Prop :=
  ∀ s b : List Byte, destuff s = .ok b ↔ s = stuff b ∨ (endsFull b = true ∧ s = stuff b ++ [0x01])

/-- 41_cobs.md section 1 (accepted set), 30_encoding.md section 1: `DESTUFF` returns exactly on the Stuffed Payloads, the
non-empty concatenations of COBS blocks without a zero byte. -/
def Obligations.DestuffAcceptsExactlyStuffedPayloads : Prop :=
  ∀ s : List Byte, (∃ pay, destuff s = .ok pay) ↔ StuffedPayload s

/-- 41_cobs.md section 1 (bounds): `plen <= n - 1` and `plen >= n - ceil(n / 255)`. -/
def Obligations.DestuffLengthBounds : Prop :=
  ∀ s pay : List Byte, destuff s = .ok pay →
    pay.length + 1 ≤ s.length ∧ s.length ≤ pay.length + (s.length + 254) / 255

/-- 10_state.md section 1 (the buffer holds no sentinel), 60_exceptions.md section 1: on a non-empty input without a zero
byte the only structural error is the overrun. -/
def Obligations.ZeroFreeInputFailsOnlyByOverrun : Prop :=
  ∀ (s : List Byte) (r : Raise), s ≠ [] → 0x00 ∉ s → destuff s = .error r → r = ⟨.framing, .overrun⟩

/-- 41_cobs.md section 2 (properties of `STUFF`), decision D8. -/
def Obligations.StuffLengthBounds : Prop :=
  ∀ b : List Byte,
    b.length + 1 ≤ (stuff b).length ∧ (stuff b).length ≤ b.length + 1 + b.length / 254 ∧
      (b ≠ [] → 0x00 ∉ b → (stuff b).length = b.length + (b.length + 253) / 254)

/-- 41_cobs.md section 2: the one-pass form with a pending block gives the same bytes as the cut into segments. -/
def Obligations.OnePassStufferAgrees : Prop :=
  ∀ b : List Byte, stuffPass [] b = stuff b

/-- 41_cobs.md section 2 (`STUFF`, decision D8; its empty input): it never fails and leaves the block alone. -/
def Obligations.StuffGivesBackStuffedBytes : Prop :=
  (∀ (s : State) (b : List Byte), exec (.stuff b) s = .next { s with ret := some (.bytes (stuff b)) }) ∧
  stuff [] = [0x01] ∧ stuff [0x11, 0x22, 0x00, 0x33] = [0x03, 0x11, 0x22, 0x02, 0x33]

/-! ### The integrity checker -/

/-- 42_crc32.md section 1 (`CRC32`): the bytes are folded in from all ones and the register is inverted at the end. What
`State.afterCall` says of `walking` and of the free-value count is the model's (log entries 5 and 7). -/
def Obligations.Crc32GivesBackTheChecksum : Prop :=
  ∀ (s : State) (b : List Byte), ∃ w : Work,
    exec (.crc32 b) s = .next (s.afterCall w (.word ((b.foldl crcByte 0xFFFFFFFF) ^^^ 0xFFFFFFFF)))

/-- 42_crc32.md section 1 (`CRC32.BYTE`, the spec's general knowledge G2): the byte enters the low end, then eight times a
right shift and, where the bit shifted out was one, the polynomial. That the register `crc` takes the operand and keeps the
result is the model's (log entry 19), and so is that the other working registers and `walking` stay (log entries 5
and 7). -/
def Obligations.Crc32ByteFoldsOneByte : Prop :=
  ∀ (s : State) (crc : Word32) (x : Byte) (v : Word32),
    v = (fun c : Word32 => if c.getLsbD 0 = true then (c >>> 1) ^^^ 0xEDB88320 else c >>> 1)^[8]
      (crc ^^^ x.setWidth 32) →
    exec (.crc32Byte crc x) s = .next { s with work := { s.work with crc := v }, ret := some (.word v) }

/-- 42_crc32.md section 1 (equivalent forms): the table-driven update agrees with the bit-serial one. -/
def Obligations.CrcTableDrivenFormAgrees : Prop :=
  ∀ (crc : Word32) (x : Byte),
    crcByte crc x = (crc >>> 8) ^^^ crcTable ((crc ^^^ x.setWidth 32).setWidth 8)

/-- 42_crc32.md section 1 (arithmetic of the checker): the checksum is linear over GF(2) up to its two constants. -/
def Obligations.CrcIsLinear : Prop :=
  ∀ a a' : List Byte, a.length = a'.length → crc32 a ^^^ crc32 a' = crc32Raw (List.zipWith (· ^^^ ·) a a')

/-- 42_crc32.md section 2, 00_scope.md section 6: the big-endian conversions are inverse to each other, and reading is the
shifted or of the four bytes. -/
def Obligations.ChecksumBytesRoundTrip : Prop :=
  (∀ v : Word32, ube32 (be32 v) = v) ∧
  (∀ t0 t1 t2 t3 : Byte, be32 (ube32 [t0, t1, t2, t3]) = [t0, t1, t2, t3] ∧
    ube32 [t0, t1, t2, t3] =
      (t0.setWidth 32 <<< 24) ||| (t1.setWidth 32 <<< 16) ||| (t2.setWidth 32 <<< 8) ||| t3.setWidth 32)

/-- 42_crc32.md section 2 (`VERIFY`): whether the checksum of the bytes is the value. What `State.afterCall` says of
`walking` and of the free-value count is the model's (log entries 5 and 7). -/
def Obligations.VerifyComparesTheChecksum : Prop :=
  ∀ (s : State) (b : List Byte) (x : Word32), ∃ w : Work,
    exec (.verify b x) s = .next (s.afterCall w (.flag (decide (crc32 b = x))))

/-- 42_crc32.md section 3 (`CHECK`): the length test first, with the kind the parameter `SHORT_KIND` names (decision D5);
then the comparison. What `State.afterCall` says of `walking` and of the free-value count is the
model's (log entries 5 and 7). -/
def Obligations.CheckSplitsThenVerifies : Prop :=
  ∀ (s : State) (pay : List Byte), ∃ w : Work,
    (pay.length < 4 → exec (.check pay) s = .next (s.afterCall w
      (.raised ⟨match s.params.shortKind with | .framing => .framing | .integrity => .integrity, .shortPayload⟩))) ∧
    (4 ≤ pay.length → crc32 (pay.take (pay.length - 4)) = ube32 (pay.drop (pay.length - 4)) →
      exec (.check pay) s = .next (s.afterCall w (.bytes (pay.take (pay.length - 4))))) ∧
    (4 ≤ pay.length → crc32 (pay.take (pay.length - 4)) ≠ ube32 (pay.drop (pay.length - 4)) →
      exec (.check pay) s = .next (s.afterCall w (.raised ⟨.integrity, .crcMismatch⟩)))

/-- 30_encoding.md section 1 (Unstuffed Payload), 20_memory.md section 1: a payload passes with `E` exactly if it is `E`
followed by its checksum, most significant byte first. -/
def Obligations.CheckAcceptsExactlyTheChecksummed : Prop :=
  ∀ (short : ShortKind) (pay e : List Byte), check short pay = .ok e ↔ pay = e ++ be32 (crc32 e)

/-- R81, with its last sentence: a single inverted bit, in `E` or in the checksum field, is rejected. -/
def Obligations.SingleBitErrorsAreCaught : Prop :=
  (∀ (short : ShortKind) (e : List Byte) (j q : Nat), j < e.length → q < 8 →
    check short (flipBit e j q ++ be32 (crc32 e)) = .error ⟨.integrity, .crcMismatch⟩) ∧
  (∀ (short : ShortKind) (e : List Byte) (q : Nat), q < 32 →
    check short (e ++ be32 (crc32 e ^^^ BitVec.twoPow 32 q)) = .error ⟨.integrity, .crcMismatch⟩)

/-! ### The pipeline and the writer -/

/-- 44_frame_reader.md section 2 (`PIPELINE`): de-stuff, then check, the first raise ending it; called on its own it gives
its outcome back as an event and emits none (log entry 16). What `State.afterCall` says of `walking` and of the free-value
count is the model's (log entries 5 and 7). -/
def Obligations.PipelineDestuffsThenChecks : Prop :=
  ∀ (s : State) (b : List Byte), ∃ w : Work,
    (∀ r, destuff b = .error r →
      exec (.pipeline b) s = .next (s.afterCall w (.event (.error r.kind r.cause)))) ∧
    (∀ pay e, destuff b = .ok pay → check s.params.shortKind pay = .ok e →
      exec (.pipeline b) s = .next (s.afterCall w (.event (.message e)))) ∧
    (∀ pay r, destuff b = .ok pay → check s.params.shortKind pay = .error r →
      exec (.pipeline b) s = .next (s.afterCall w (.event (.error r.kind r.cause))))

/-- 60_exceptions.md section 1 (`IntegrityError`): raised exactly when the frame de-stuffs, has at least 4 bytes, and the
checksum differs; the block then reports it, discards the frame and is ready for the next. That the step clears `walking`
and uses a free value is the model's (log entries 5 and 7). -/
def Obligations.IntegrityErrorExactlyOnMismatch : Prop :=
  (∀ (short : ShortKind) (b : List Byte),
    pipeline short b = .error ⟨.integrity, .crcMismatch⟩ ↔
      ∃ pay, destuff b = .ok pay ∧ 4 ≤ pay.length ∧
        crc32 (pay.take (pay.length - 4)) ≠ ube32 (pay.drop (pay.length - 4))) ∧
  (∀ s : State, s.fsm ≠ .stopped → 0 < s.len → s.ovf = false →
    pipeline s.params.shortKind s.buf = .error ⟨.integrity, .crcMismatch⟩ →
    ∃ w : Work, exec .rxEnd s = .next { s with
      buf := [], fsm := .idle, output := s.output ++ [.error .integrity .crcMismatch],
      work := w, freeCount := s.freeCount + 1, walking := false })

/-- 44_frame_reader.md section 4 (`READ`): the codec's verdict on the Encoded Message Bytes of a frame that passes. A raise
of the pipeline is passed on (log entry 13). Nothing is said of what the codec answers (log entry 4). What
`State.afterCall` says of `walking` and of the free-value count is the model's (log entries 5 and 7). -/
def Obligations.ReadGivesBackTheDecodedMessage : Prop :=
  ∀ (s : State) (b : List Byte), ∃ w : Work,
    (∀ e, pipeline s.params.shortKind b = .ok e →
      exec (.read b) s = .next (s.afterCall w (match Config.codec.decode e with
        | some m => .message m
        | none => .codecError))) ∧
    (∀ r, pipeline s.params.shortKind b = .error r →
      exec (.read b) s = .next (s.afterCall w (.raised r)))

/-- 44_frame_reader.md section 4 (a): for every codec and every message it round-trips, reading what lies between the
sentinels of the message's frame gives the message. -/
def Obligations.ReadUndoesWrite : Prop :=
  ∀ (c : Codec) (m : Message) (short : ShortKind), c.roundTrips m →
    readResult c short (stuff (c.encode m ++ be32 (crc32 (c.encode m)))) = .message m

/-- 45_frame_writer.md (`WRITE_E`): the frame. What `State.afterCall` says of `walking` and of the free-value count is the
model's (log entries 5 and 7). -/
def Obligations.WriteEGivesBackTheFrame : Prop :=
  ∀ (s : State) (e : List Byte), ∃ w : Work,
    exec (.writeE e) s = .next (s.afterCall w (.bytes ([0x00] ++ stuff (e ++ be32 (crc32 e)) ++ [0x00])))

/-- 45_frame_writer.md (`WRITE`): total, for every message, whatever the codec, which is the model's opaque constant (log
entry 4). What `State.afterCall` says of `walking` and of the free-value count is the model's (log entries 5 and 7). -/
def Obligations.WriteIsWriteEOfTheEncoding : Prop :=
  ∀ (s : State) (m : Message), ∃ w : Work,
    exec (.write m) s = .next (s.afterCall w (.bytes (writeE (Config.codec.encode m))))

/-- 45_frame_writer.md (properties of `WRITE_E`): zero bytes at both ends and nowhere else, and the length. -/
def Obligations.WrittenFrameShape : Prop :=
  ∀ e : List Byte, ∃ s : List Byte, writeE e = [0x00] ++ s ++ [0x00] ∧ 0x00 ∉ s ∧ s ≠ [] ∧
    e.length + 7 ≤ (writeE e).length ∧ (writeE e).length ≤ e.length + 7 + (e.length + 4) / 254

/-! ### Whole frames -/

/-- 44_frame_reader.md section 4 (b), 45_frame_writer.md (transmission): the frames of any number of `E`s, fed one byte a
step to a block in step with the stream whose buffer has room for each, give exactly their messages, in order, and leave
the block in step. -/
def Obligations.WrittenFramesAreReadInOrder : Prop :=
  ∀ (s : State) (es : List (List Byte)) (rest : List Action), s.synced →
    (∀ e ∈ es, s.roomFor (stuff (e ++ be32 (crc32 e))).length) →
    ∃ t : State,
      Host.Core.run core (es.flatMap writeE).length { s with pending := feed (es.flatMap writeE) ++ rest } = .next t ∧
      t.output = s.output ++ es.map .message ∧ t.synced ∧ t.pending = rest ∧ t.params = s.params

/-- 70_reset_and_hazards.md section 2, 45_frame_writer.md (both sentinels): stray bytes in the buffer cost one event of their
own, the outcome of the stray frame, and the good frame after them is delivered. -/
def Obligations.StrayBytesCostOneEvent : Prop :=
  ∀ (s : State) (e : List Byte) (rest : List Action), s.fsm ≠ .stopped → s.buf ≠ [] →
    s.roomFor (stuff (e ++ be32 (crc32 e))).length →
    ∃ (t : State) (o : OutputEvent),
      Host.Core.run core (writeE e).length { s with pending := feed (writeE e) ++ rest } = .next t ∧
      t.output = s.output ++ [o, .message e] ∧ t.synced ∧ t.pending = rest ∧
      (s.ovf = true → o = .error .framing .overflow) ∧
      (s.ovf = false → o = outcomeEvent (pipeline s.params.shortKind s.buf))

/-- 44_frame_reader.md section 2, 60_exceptions.md section 1 (overflow, decision D4): from a block in step, the bytes of any
non-empty frame and its closing sentinel give one event: the pipeline's outcome on exactly those bytes where they fit, and
the overflow error where they do not. -/
def Obligations.FrameOutcomeFromItsBytes : Prop :=
  ∀ (s : State) (bs : List Byte) (rest : List Action), s.synced → s.params.wf = true → bs ≠ [] → 0x00 ∉ bs →
    ∃ (t : State) (o : OutputEvent),
      Host.Core.run core (bs.length + 1) { s with pending := feed (bs ++ [0x00]) ++ rest } = .next t ∧
      t.output = s.output ++ [o] ∧ t.synced ∧ t.pending = rest ∧
      (s.roomFor bs.length → o = outcomeEvent (pipeline s.params.shortKind bs)) ∧
      ((∃ cap ∈ s.params.bufCap, cap < bs.length) → o = .error .framing .overflow)

/-! ### The whole machine -/

/-- 10_state.md section 1: every step keeps the invariant of the block (`State.Inv`: no sentinel in the buffer, the length
within `BUF_CAP`, Idle exactly when empty, the flag only with a full buffer). Decisions D4 and D10. -/
def Obligations.InvariantKeptByEveryStep : Prop :=
  ∀ s t : State, s.Inv → step s = .next t → t.Inv

/-- 10_state.md sections 1 and 8: the reset state meets the invariant, with every `BUF_CAP` of at least 1 (the parameters
of the reset state itself are the model's, log entry 3). -/
def Obligations.ResetMeetsTheInvariant : Prop :=
  State.reset.Inv ∧ ∀ p : Params, p.wf = true → State.Inv { State.reset with params := p }

/-- R37: what reset leaves, as far as the rule gives values. -/
def Obligations.ResetValues : Prop :=
  State.reset.fsm = .idle ∧ State.reset.len = 0 ∧ State.reset.ovf = false ∧ State.reset.output = []

/-- 70_reset_and_hazards.md section 1, decision D14: the caller's reset, in every state and `Stopped` too, puts the block
into the reset state, emits nothing and reports nothing of a partial frame. The spec leaves everything else unspecified:
that the working registers are then zero or empty and `walking` is clear, as in the model's reset state (log entries 5
and 12), and what stays of the environment's side (log entry 12), are the model's choice. -/
def Obligations.CallerResetFromEveryState : Prop :=
  ∀ (s : State) (rest : List Action), s.pending = .reset :: rest →
    step s = .next { State.reset with
      params := s.params, pending := rest, output := s.output, ret := s.ret, freeCount := s.freeCount }

/-- 00_scope.md section 5, 30_encoding.md section 4: the step is total; in no state, and on no input, does it fault or
refuse. -/
def Obligations.EveryStepAnswersANextState : Prop :=
  ∀ s : State, ∃ t : State, step s = .next t

/-- 44_frame_reader.md section 1, 60_exceptions.md section 4: a step emits an event exactly when a running block meets a
sentinel with a non-empty buffer, `Stop` or `Lost`, and then exactly one; nothing emitted is ever taken back. -/
def Obligations.EventsComeOnlyFromEndStopLost : Prop :=
  ∀ s t : State, step s = .next t →
    ((s.fsm ≠ .stopped ∧
        ((s.pending.head? = some (.event (.byte 0x00)) ∧ s.buf ≠ []) ∨ s.pending.head? = some (.event .stop) ∨
          s.pending.head? = some (.event .lost))) ∧
      ∃ o : OutputEvent, t.output = s.output ++ [o]) ∨
    (¬ (s.fsm ≠ .stopped ∧
        ((s.pending.head? = some (.event (.byte 0x00)) ∧ s.buf ≠ []) ∨ s.pending.head? = some (.event .stop) ∨
          s.pending.head? = some (.event .lost))) ∧
      t.output = s.output)

/-- 44_frame_reader.md sections 1 and 3, 70_reset_and_hazards.md section 1 (decisions D10, D14): only `Stop` and `Lost` end
the read loop, and only reset leaves `Stopped`. -/
def Obligations.OnlyStopAndLostEndTheLoop : Prop :=
  ∀ s t : State, step s = .next t →
    (s.fsm ≠ .stopped → (t.fsm = .stopped ↔
      s.pending.head? = some (.event .stop) ∨ s.pending.head? = some (.event .lost))) ∧
    (s.fsm = .stopped → (t.fsm ≠ .stopped ↔ s.pending.head? = some .reset))

/-- 44_frame_reader.md section 4 (c): no finite sequence of `Byte` and `Timeout` events stops the reader, and after a
sentinel the block is Idle with an empty buffer. -/
def Obligations.BadInputNeverStopsTheReader : Prop :=
  ∀ (s : State) (evs : List InputEvent) (rest : List Action), s.Inv → s.fsm ≠ .stopped →
    (∀ e ∈ evs, e.harmless = true) →
    ∃ t : State,
      Host.Core.run core evs.length { s with pending := evs.map .event ++ rest } = .next t ∧
      t.fsm ≠ .stopped ∧ t.pending = rest ∧ (evs.getLast? = some (.byte 0x00) → t.synced)

/-- 44_frame_reader.md section 4 (d), 20_memory.md section 5: what two blocks that are in step emit on the same events is the
same, whatever came before: their outputs grow by the same events and their persistent state stays equal. -/
def Obligations.OutputsDependOnlyOnEventsSinceSync : Prop :=
  ∀ (s s' : State) (evs : List InputEvent) (rest rest' : List Action), s.synced → s'.synced → s.params = s'.params →
    ∃ (t t' : State) (outs : List OutputEvent),
      Host.Core.run core evs.length { s with pending := evs.map .event ++ rest } = .next t ∧
      Host.Core.run core evs.length { s' with pending := evs.map .event ++ rest' } = .next t' ∧
      t.output = s.output ++ outs ∧ t'.output = s'.output ++ outs ∧
      t.fsm = t'.fsm ∧ t.buf = t'.buf ∧ t.ovf = t'.ovf

/-- 10_state.md sections 2 and 6 (decision D11): the working registers carry nothing from one step to the next: whatever
they hold, a step does the same to everything else. A block of a `DESTUFF` under way, which works on them, is the one
exception. -/
def Obligations.WorkingRegistersCarryNothing : Prop :=
  ∀ (s t : State) (w : Work), s.pending.head? ≠ some .walkBlock → step s = .next t →
    ∃ w' : Work, step (s.setWork w) = .next (t.setWork w')

/-- 00_scope.md section 3, 42_crc32.md section 1: every function-level operation gives something back in every state and
leaves the block, its ports and its parameters as they are. -/
def Obligations.FunctionsLeaveTheBlockAlone : Prop :=
  ∀ (s : State) (f : Fn), ∃ (t : State) (r : Ret),
    exec f.toInstr s = .next t ∧ t.ret = some r ∧ s.sameBlock t

/-- 60_exceptions.md section 1 (decisions D4, D5, D9): in a state that meets the invariant, the only errors the block reports
are these four, each with its kind. -/
def Obligations.ErrorsTheBlockCanReport : Prop :=
  ∀ (s t : State) (k : ErrorKind) (c : Cause), s.Inv → step s = .next t → t.output = s.output ++ [.error k c] →
    (c = .overrun ∧ k = .framing) ∨
    (c = .shortPayload ∧ (s.params.shortKind = .framing → k = .framing) ∧
      (s.params.shortKind = .integrity → k = .integrity)) ∨
    (c = .overflow ∧ k = .framing ∧ s.params.bufCap ≠ none) ∨
    (c = .crcMismatch ∧ k = .integrity)
end

