-- ==== Sys2Proof/Laws/State.lean ====
section
/-! SUPPORT. One lemma for each field under each update of the state, so that no proof unfolds an update. -/

namespace Sys2Proof
namespace Machine

variable (s : State)

@[simp] theorem State.appendBuf_params (b : Byte) : (s.appendBuf b).params = s.params := rfl
@[simp] theorem State.appendBuf_fsm (b : Byte) : (s.appendBuf b).fsm = s.fsm := rfl
@[simp] theorem State.appendBuf_buf (b : Byte) : (s.appendBuf b).buf = s.buf ++ [b] := rfl
@[simp] theorem State.appendBuf_ovf (b : Byte) : (s.appendBuf b).ovf = s.ovf := rfl
@[simp] theorem State.appendBuf_work (b : Byte) : (s.appendBuf b).work = s.work := rfl
@[simp] theorem State.appendBuf_freeCount (b : Byte) : (s.appendBuf b).freeCount = s.freeCount := rfl
@[simp] theorem State.appendBuf_walking (b : Byte) : (s.appendBuf b).walking = s.walking := rfl
@[simp] theorem State.appendBuf_pending (b : Byte) : (s.appendBuf b).pending = s.pending := rfl
@[simp] theorem State.appendBuf_output (b : Byte) : (s.appendBuf b).output = s.output := rfl
@[simp] theorem State.appendBuf_ret (b : Byte) : (s.appendBuf b).ret = s.ret := rfl

@[simp] theorem State.clear_params : (s.clear).params = s.params := rfl
@[simp] theorem State.clear_fsm : (s.clear).fsm = .idle := rfl
@[simp] theorem State.clear_buf : (s.clear).buf = [] := rfl
@[simp] theorem State.clear_ovf : (s.clear).ovf = false := rfl
@[simp] theorem State.clear_work : (s.clear).work = s.work := rfl
@[simp] theorem State.clear_freeCount : (s.clear).freeCount = s.freeCount := rfl
@[simp] theorem State.clear_walking : (s.clear).walking = s.walking := rfl
@[simp] theorem State.clear_pending : (s.clear).pending = s.pending := rfl
@[simp] theorem State.clear_output : (s.clear).output = s.output := rfl
@[simp] theorem State.clear_ret : (s.clear).ret = s.ret := rfl

@[simp] theorem State.emit_params (o : OutputEvent) : (s.emit o).params = s.params := rfl
@[simp] theorem State.emit_fsm (o : OutputEvent) : (s.emit o).fsm = s.fsm := rfl
@[simp] theorem State.emit_buf (o : OutputEvent) : (s.emit o).buf = s.buf := rfl
@[simp] theorem State.emit_ovf (o : OutputEvent) : (s.emit o).ovf = s.ovf := rfl
@[simp] theorem State.emit_work (o : OutputEvent) : (s.emit o).work = s.work := rfl
@[simp] theorem State.emit_freeCount (o : OutputEvent) : (s.emit o).freeCount = s.freeCount := rfl
@[simp] theorem State.emit_walking (o : OutputEvent) : (s.emit o).walking = s.walking := rfl
@[simp] theorem State.emit_pending (o : OutputEvent) : (s.emit o).pending = s.pending := rfl
@[simp] theorem State.emit_output (o : OutputEvent) : (s.emit o).output = s.output ++ [o] := rfl
@[simp] theorem State.emit_ret (o : OutputEvent) : (s.emit o).ret = s.ret := rfl

@[simp] theorem State.setWork_params (w : Work) : (s.setWork w).params = s.params := rfl
@[simp] theorem State.setWork_fsm (w : Work) : (s.setWork w).fsm = s.fsm := rfl
@[simp] theorem State.setWork_buf (w : Work) : (s.setWork w).buf = s.buf := rfl
@[simp] theorem State.setWork_ovf (w : Work) : (s.setWork w).ovf = s.ovf := rfl
@[simp] theorem State.setWork_work (w : Work) : (s.setWork w).work = w := rfl
@[simp] theorem State.setWork_freeCount (w : Work) : (s.setWork w).freeCount = s.freeCount := rfl
@[simp] theorem State.setWork_walking (w : Work) : (s.setWork w).walking = s.walking := rfl
@[simp] theorem State.setWork_pending (w : Work) : (s.setWork w).pending = s.pending := rfl
@[simp] theorem State.setWork_output (w : Work) : (s.setWork w).output = s.output := rfl
@[simp] theorem State.setWork_ret (w : Work) : (s.setWork w).ret = s.ret := rfl

@[simp] theorem State.release_params : (s.release).params = s.params := rfl
@[simp] theorem State.release_fsm : (s.release).fsm = s.fsm := rfl
@[simp] theorem State.release_buf : (s.release).buf = s.buf := rfl
@[simp] theorem State.release_ovf : (s.release).ovf = s.ovf := rfl
@[simp] theorem State.release_work : (s.release).work = Work.free s.freeCount := rfl
@[simp] theorem State.release_freeCount : (s.release).freeCount = s.freeCount + 1 := rfl
@[simp] theorem State.release_walking : (s.release).walking = false := rfl
@[simp] theorem State.release_pending : (s.release).pending = s.pending := rfl
@[simp] theorem State.release_output : (s.release).output = s.output := rfl
@[simp] theorem State.release_ret : (s.release).ret = s.ret := rfl

@[simp] theorem State.setOvf_params : (s.setOvf).params = s.params := rfl
@[simp] theorem State.setOvf_fsm : (s.setOvf).fsm = s.fsm := rfl
@[simp] theorem State.setOvf_buf : (s.setOvf).buf = s.buf := rfl
@[simp] theorem State.setOvf_ovf : (s.setOvf).ovf = true := rfl
@[simp] theorem State.setOvf_work : (s.setOvf).work = s.work := rfl
@[simp] theorem State.setOvf_freeCount : (s.setOvf).freeCount = s.freeCount := rfl
@[simp] theorem State.setOvf_walking : (s.setOvf).walking = s.walking := rfl
@[simp] theorem State.setOvf_pending : (s.setOvf).pending = s.pending := rfl
@[simp] theorem State.setOvf_output : (s.setOvf).output = s.output := rfl
@[simp] theorem State.setOvf_ret : (s.setOvf).ret = s.ret := rfl

@[simp] theorem State.giveBack_params (r : Ret) : (s.giveBack r).params = s.params := rfl
@[simp] theorem State.giveBack_fsm (r : Ret) : (s.giveBack r).fsm = s.fsm := rfl
@[simp] theorem State.giveBack_buf (r : Ret) : (s.giveBack r).buf = s.buf := rfl
@[simp] theorem State.giveBack_ovf (r : Ret) : (s.giveBack r).ovf = s.ovf := rfl
@[simp] theorem State.giveBack_work (r : Ret) : (s.giveBack r).work = s.work := rfl
@[simp] theorem State.giveBack_freeCount (r : Ret) : (s.giveBack r).freeCount = s.freeCount := rfl
@[simp] theorem State.giveBack_walking (r : Ret) : (s.giveBack r).walking = s.walking := rfl
@[simp] theorem State.giveBack_pending (r : Ret) : (s.giveBack r).pending = s.pending := rfl
@[simp] theorem State.giveBack_output (r : Ret) : (s.giveBack r).output = s.output := rfl
@[simp] theorem State.giveBack_ret (r : Ret) : (s.giveBack r).ret = some r := rfl

@[simp] theorem State.halt_params (o : OutputEvent) : (s.halt o).params = s.params := rfl
@[simp] theorem State.halt_fsm (o : OutputEvent) : (s.halt o).fsm = .stopped := rfl
@[simp] theorem State.halt_buf (o : OutputEvent) : (s.halt o).buf = s.buf := rfl
@[simp] theorem State.halt_ovf (o : OutputEvent) : (s.halt o).ovf = s.ovf := rfl
@[simp] theorem State.halt_work (o : OutputEvent) : (s.halt o).work = s.work := rfl
@[simp] theorem State.halt_freeCount (o : OutputEvent) : (s.halt o).freeCount = s.freeCount := rfl
@[simp] theorem State.halt_walking (o : OutputEvent) : (s.halt o).walking = s.walking := rfl
@[simp] theorem State.halt_pending (o : OutputEvent) : (s.halt o).pending = s.pending := rfl
@[simp] theorem State.halt_output (o : OutputEvent) : (s.halt o).output = s.output ++ [o] := rfl
@[simp] theorem State.halt_ret (o : OutputEvent) : (s.halt o).ret = s.ret := rfl

@[simp] theorem State.takeError_params (r : Raise) : (s.takeError r).params = s.params := rfl
@[simp] theorem State.takeError_fsm (r : Raise) : (s.takeError r).fsm = .idle := rfl
@[simp] theorem State.takeError_buf (r : Raise) : (s.takeError r).buf = [] := rfl
@[simp] theorem State.takeError_ovf (r : Raise) : (s.takeError r).ovf = false := rfl
@[simp] theorem State.takeError_work (r : Raise) : (s.takeError r).work = s.work := rfl
@[simp] theorem State.takeError_freeCount (r : Raise) : (s.takeError r).freeCount = s.freeCount := rfl
@[simp] theorem State.takeError_walking (r : Raise) : (s.takeError r).walking = s.walking := rfl
@[simp] theorem State.takeError_pending (r : Raise) : (s.takeError r).pending = s.pending := rfl
@[simp] theorem State.takeError_output (r : Raise) : (s.takeError r).output = s.output ++ [.error r.kind r.cause] := rfl
@[simp] theorem State.takeError_ret (r : Raise) : (s.takeError r).ret = s.ret := rfl

@[simp] theorem State.deliver_params (e : List Byte) : (s.deliver e).params = s.params := rfl
@[simp] theorem State.deliver_fsm (e : List Byte) : (s.deliver e).fsm = .idle := rfl
@[simp] theorem State.deliver_buf (e : List Byte) : (s.deliver e).buf = [] := rfl
@[simp] theorem State.deliver_ovf (e : List Byte) : (s.deliver e).ovf = false := rfl
@[simp] theorem State.deliver_work (e : List Byte) : (s.deliver e).work = s.work := rfl
@[simp] theorem State.deliver_freeCount (e : List Byte) : (s.deliver e).freeCount = s.freeCount := rfl
@[simp] theorem State.deliver_walking (e : List Byte) : (s.deliver e).walking = s.walking := rfl
@[simp] theorem State.deliver_pending (e : List Byte) : (s.deliver e).pending = s.pending := rfl
@[simp] theorem State.deliver_output (e : List Byte) : (s.deliver e).output = s.output ++ [.message e] := rfl
@[simp] theorem State.deliver_ret (e : List Byte) : (s.deliver e).ret = s.ret := rfl

@[simp] theorem State.restart_params : (s.restart).params = s.params := rfl
@[simp] theorem State.restart_fsm : (s.restart).fsm = .idle := rfl
@[simp] theorem State.restart_buf : (s.restart).buf = [] := rfl
@[simp] theorem State.restart_ovf : (s.restart).ovf = false := rfl
@[simp] theorem State.restart_work : (s.restart).work = Work.reset := rfl
@[simp] theorem State.restart_freeCount : (s.restart).freeCount = s.freeCount := rfl
@[simp] theorem State.restart_walking : (s.restart).walking = false := rfl
@[simp] theorem State.restart_pending : (s.restart).pending = s.pending := rfl
@[simp] theorem State.restart_output : (s.restart).output = s.output := rfl
@[simp] theorem State.restart_ret : (s.restart).ret = s.ret := rfl

@[simp] theorem State.consume_params (rest : List Action) : (s.consume rest).params = s.params := rfl
@[simp] theorem State.consume_fsm (rest : List Action) : (s.consume rest).fsm = s.fsm := rfl
@[simp] theorem State.consume_buf (rest : List Action) : (s.consume rest).buf = s.buf := rfl
@[simp] theorem State.consume_ovf (rest : List Action) : (s.consume rest).ovf = s.ovf := rfl
@[simp] theorem State.consume_work (rest : List Action) : (s.consume rest).work = s.work := rfl
@[simp] theorem State.consume_freeCount (rest : List Action) : (s.consume rest).freeCount = s.freeCount := rfl
@[simp] theorem State.consume_walking (rest : List Action) : (s.consume rest).walking = s.walking := rfl
@[simp] theorem State.consume_pending (rest : List Action) : (s.consume rest).pending = rest := rfl
@[simp] theorem State.consume_output (rest : List Action) : (s.consume rest).output = s.output := rfl
@[simp] theorem State.consume_ret (rest : List Action) : (s.consume rest).ret = s.ret := rfl

/-- What the delimiter decodes a byte by does not depend on what else is presented. -/
@[simp] theorem State.consume_rxSlot (rest : List Action) : (s.consume rest).rxSlot = s.rxSlot := rfl

end Machine
end Sys2Proof
end

