-- ==== Sys2Proof/Laws/Ops.lean ====
section
/-! SUPPORT. What each shared operation can do, said once: the selection guards, the buffer as cells, the overflow
condition. -/

namespace Sys2Proof
namespace Machine

/-! ### Selection -/

/-- A selected operation has its effect, and only a selected one answers a next state. -/
theorem whenSelected_next {sel : Bool} {name : String} {t u : State} :
    whenSelected sel name t = .next u ↔ sel = true ∧ u = t := by
  cases sel <;> simp [whenSelected, eq_comm]

theorem whenSelected_true (name : String) (t : State) : whenSelected true name t = .next t := rfl

/-- An operation on an input event answers `u` exactly when it is ignored in `Stopped` or is selected. -/
theorem State.receive_next {s t u : State} {sel : Bool} {name : String} :
    s.receive sel name t = .next u ↔
      (s.fsm = .stopped ∧ u = s) ∨ (s.fsm ≠ .stopped ∧ sel = true ∧ u = t) := by
  unfold State.receive
  split <;> rename_i h
  · simp [h, eq_comm]
  · simp [h, whenSelected_next]

theorem State.receive_stopped {s : State} (h : s.fsm = .stopped) (sel : Bool) (name : String) (t : State) :
    s.receive sel name t = .next s := if_pos h

theorem State.receive_selected {s : State} (h : s.fsm ≠ .stopped) (name : String) (t : State) :
    s.receive true name t = .next t := if_neg h

/-! ### The buffer -/

theorem State.bufEmpty_iff (s : State) : s.bufEmpty = true ↔ s.buf = [] := by
  simp [State.bufEmpty]

/-- `len = BUF_CAP` or beyond, with a finite `BUF_CAP`. -/
theorem State.bufFull_iff (s : State) : s.bufFull = true ↔ ∃ cap ∈ s.params.bufCap, cap ≤ s.len := by
  unfold State.bufFull State.len
  cases s.params.bufCap <;> simp only [reduceCtorEq, Option.mem_def, false_and, exists_false, decide_eq_true_eq,
    Option.some.injEq, exists_eq_left']

theorem State.not_bufFull_iff (s : State) : s.bufFull = false ↔ ∀ cap ∈ s.params.bufCap, s.len < cap := by
  rw [← Bool.not_eq_true, State.bufFull_iff]
  simp

theorem Memory.wf_zipIdx (b : List Byte) (n : Nat) :
    Memory.wf ((b.zipIdx n).map fun p => (p.2, p.1)) = true := by
  induction b generalizing n with
  | nil => rfl
  | cons x xs ih =>
    cases xs with
    | nil => rfl
    | cons y ys => simpa [Memory.wf, List.zipIdx_cons] using ih (n + 1)

/-- The buffer is in canonical form in every state, so every operation keeps it. -/
theorem State.bufCells_wf (s : State) : Memory.wf s.bufCells = true := Memory.wf_zipIdx s.buf 0

/-- Equal buffers are equal lists of cells, and the cells say what reading says. -/
theorem State.readBuf_bufCells (s : State) (a : Nat) (x : Byte) :
    (a, x) ∈ s.bufCells ↔ s.readBuf a = some x := by
  simp only [State.bufCells, State.readBuf, List.mem_map, Prod.mk.injEq]
  constructor
  · rintro ⟨⟨y, n⟩, h, rfl, rfl⟩
    simpa [List.mk_mem_zipIdx_iff_getElem?] using h
  · intro h
    exact ⟨(x, a), by simpa [List.mk_mem_zipIdx_iff_getElem?] using h, rfl, rfl⟩

/-- The append writes the byte at the index `len` and no other. -/
theorem State.readBuf_appendBuf (s : State) (b : Byte) (a : Nat) :
    (s.appendBuf b).readBuf a = if a = s.len then some b else s.readBuf a := by
  simp only [State.readBuf, State.appendBuf_buf, State.len]
  by_cases h : a = s.buf.length
  · simp [h]
  · rw [if_neg h]
    rcases Nat.lt_or_gt_of_ne h with h | h
    · rw [List.getElem?_append_left h]
    · rw [List.getElem?_append_right (by omega), List.getElem?_eq_none (by simp; omega),
        List.getElem?_eq_none (by omega)]

end Machine
end Sys2Proof
end

