-- ==== Sys2Proof/Laws/Cobs.lean ====
section
/-! SUPPORT. One specification lemma for each function of the COBS unit: what copying does, how a block ends, and that the
result of a walk depends only on the input, the index and the payload so far. -/

namespace Sys2Proof
namespace Machine

/-! ### Copying -/

/-- Zero-free data are copied whole. -/
theorem Work.copy_zero_free {d : List Byte} (h : 0x00 ∉ d) (k : Nat) (w : Work) :
    ∃ k', Work.copy d k w = ({ w with k := k', pay := w.pay ++ d }, true) := by
  induction d generalizing k w with
  | nil => exact ⟨w.k, by simp [Work.copy]⟩
  | cons x xs ih =>
    simp only [List.mem_cons, not_or] at h
    obtain ⟨k', hk⟩ := ih h.2 (k + 1) { w with k := BitVec.ofNat 8 k, pay := w.pay ++ [x] }
    exact ⟨k', by rw [Work.copy, if_neg (Ne.symm h.1), hk]; simp⟩

/-- A zero among the data stops the copying. -/
theorem Work.copy_zero {d : List Byte} (h : 0x00 ∈ d) (k : Nat) (w : Work) :
    ∃ k' pay', Work.copy d k w = ({ w with k := k', pay := pay' }, false) := by
  induction d generalizing k w with
  | nil => simp at h
  | cons x xs ih =>
    by_cases hx : x = 0x00
    · exact ⟨BitVec.ofNat 8 k, w.pay, by simp [Work.copy, hx]⟩
    · have h' : 0x00 ∈ xs := (List.mem_cons.1 h).resolve_left (Ne.symm hx)
      obtain ⟨k', p', hk⟩ := ih h' (k + 1) { w with k := BitVec.ofNat 8 k, pay := w.pay ++ [x] }
      exact ⟨k', p', by rw [Work.copy, if_neg hx, hk]⟩

/-! ### One block -/

/-- `COBS.RUN` on zero-free data. -/
theorem Work.blockRun_ok {w : Work} {c : Byte} (h : 0x00 ∉ w.data c) :
    ∃ k', w.blockRun c =
      if w.i + c.toNat < w.src.length then
        ({ w with code := c, k := k', i := w.i + c.toNat, pay := w.pay ++ w.data c ++ [0x00] }, .goesOn)
      else ({ w with code := c, k := k', i := w.i + c.toNat, pay := w.pay ++ w.data c }, .returns) := by
  obtain ⟨k', hk⟩ := Work.copy_zero_free h 1 { w with code := c }
  refine ⟨k', ?_⟩
  rw [Work.blockRun, hk]
  by_cases hi : w.i + c.toNat < w.src.length <;> simp [Work.advance, hi, Work.appendZero]

/-- `COBS.FULL` on zero-free data. -/
theorem Work.blockFull_ok {w : Work} (h : 0x00 ∉ w.data Config.codeFull) :
    ∃ k', w.blockFull =
      ({ w with code := Config.codeFull, k := k', i := w.i + 255, pay := w.pay ++ w.data Config.codeFull },
        if w.i + 255 < w.src.length then .goesOn else .returns) := by
  obtain ⟨k', hk⟩ := Work.copy_zero_free h 1 { w with code := Config.codeFull }
  refine ⟨k', ?_⟩
  rw [Work.blockFull, hk]
  by_cases hi : w.i + 255 < w.src.length <;> simp [Work.advance, Config.codeFull, hi]

/-- A zero data byte is reported by either block. -/
theorem Work.block_zero_data {w : Work} {c : Byte} (h : 0x00 ∈ w.data c) :
    ∃ k' pay', w.blockRun c = ({ w with code := c, k := k', pay := pay' }, .raises .zeroData) := by
  obtain ⟨k', p', hk⟩ := Work.copy_zero h 1 { w with code := c }
  exact ⟨k', p', by rw [Work.blockRun, hk]⟩

theorem Work.blockFull_zero_data {w : Work} (h : 0x00 ∈ w.data Config.codeFull) :
    ∃ k' pay', w.blockFull =
      ({ w with code := Config.codeFull, k := k', pay := pay' }, .raises .zeroData) := by
  obtain ⟨k', p', hk⟩ := Work.copy_zero h 1 { w with code := Config.codeFull }
  exact ⟨k', p', by rw [Work.blockFull, hk]⟩

/-! ### Independence of the registers that `DESTUFF` initialises -/

/-- The registers a walk reads before writing them agree. -/
def Work.sameWalk (w v : Work) : Prop := w.src = v.src ∧ w.i = v.i ∧ w.pay = v.pay

theorem Work.sameWalk.data {w v : Work} (h : w.sameWalk v) (c : Byte) : w.data c = v.data c := by
  simp [Work.data, h.1, h.2.1]

theorem Work.blockRun_sameWalk {w v : Work} (h : w.sameWalk v) (c : Byte) :
    (w.blockRun c).2 = (v.blockRun c).2 ∧
      ((w.blockRun c).2 = .raises .zeroData ∨ (w.blockRun c).1.sameWalk (v.blockRun c).1) := by
  by_cases hz : 0x00 ∈ w.data c
  · obtain ⟨_, _, h1⟩ := Work.block_zero_data hz
    obtain ⟨_, _, h2⟩ := Work.block_zero_data (w := v) (h.data c ▸ hz)
    simp [h1, h2]
  · obtain ⟨_, h1⟩ := Work.blockRun_ok hz
    obtain ⟨_, h2⟩ := Work.blockRun_ok (w := v) (h.data c ▸ hz)
    have hd := h.data c
    obtain ⟨hs, hi, hp⟩ := h
    rw [h1, h2, hs, hi]
    by_cases hlt : v.i + c.toNat < v.src.length <;> simp [hlt, Work.sameWalk, hp, hd]

theorem Work.blockFull_sameWalk {w v : Work} (h : w.sameWalk v) :
    w.blockFull.2 = v.blockFull.2 ∧
      (w.blockFull.2 = .raises .zeroData ∨ w.blockFull.1.sameWalk v.blockFull.1) := by
  by_cases hz : 0x00 ∈ w.data Config.codeFull
  · obtain ⟨_, _, h1⟩ := Work.blockFull_zero_data hz
    obtain ⟨_, _, h2⟩ := Work.blockFull_zero_data (w := v) (h.data _ ▸ hz)
    simp [h1, h2]
  · obtain ⟨_, h1⟩ := Work.blockFull_ok hz
    obtain ⟨_, h2⟩ := Work.blockFull_ok (w := v) (h.data _ ▸ hz)
    have hd := h.data Config.codeFull
    obtain ⟨hs, hi, hp⟩ := h
    rw [h1, h2, hs, hi]
    by_cases hlt : v.i + 255 < v.src.length <;> simp [hlt, Work.sameWalk, hp, hd]

/-- One pass ends alike, and what it leaves for the next pass agrees. -/
theorem Work.block_sameWalk {w v : Work} (h : w.sameWalk v) (c : Byte) :
    (w.block c).2 = (v.block c).2 ∧
      ((∃ e, (w.block c).2 = .raises e) ∨ (w.block c).1.sameWalk (v.block c).1) := by
  have hc : classifyCode (w.src.length - w.i) c = classifyCode (v.src.length - v.i) c := by rw [h.1, h.2.1]
  unfold Work.block
  rw [hc]
  cases classifyCode (v.src.length - v.i) c with
  | zero => exact ⟨rfl, .inl ⟨_, rfl⟩⟩
  | overrun => exact ⟨rfl, .inl ⟨_, rfl⟩⟩
  | run =>
    obtain ⟨h1, h2⟩ := Work.blockRun_sameWalk h c
    exact ⟨h1, h2.imp (fun e => ⟨_, e⟩) id⟩
  | full =>
    obtain ⟨h1, h2⟩ := Work.blockFull_sameWalk h
    exact ⟨h1, h2.imp (fun e => ⟨_, e⟩) id⟩

theorem Work.walk_sameWalk (fuel : Nat) {w v : Work} (h : w.sameWalk v) :
    (Work.walk fuel w).2 = (Work.walk fuel v).2 ∧
      ((∃ e, (Work.walk fuel w).2 = .raises e) ∨ (Work.walk fuel w).1.sameWalk (Work.walk fuel v).1) := by
  induction fuel generalizing w v with
  | zero => exact ⟨rfl, .inr h⟩
  | succ n ih =>
    have hs : v.src[v.i]? = w.src[w.i]? := by rw [h.1, h.2.1]
    rw [Work.walk, Work.walk, hs]
    cases w.src[w.i]? with
    | none => exact ⟨rfl, .inr h⟩
    | some c =>
      obtain ⟨he, hw⟩ := Work.block_sameWalk h c
      rcases hb : w.block c with ⟨w1, e⟩
      rcases hb' : v.block c with ⟨v1, e'⟩
      rw [hb, hb'] at he hw
      obtain rfl : e = e' := he
      cases e with
      | goesOn => simpa [hb, hb'] using ih (by simpa using hw)
      | returns => simpa [hb, hb'] using hw
      | raises c => simp [hb, hb']

/-- `DESTUFF`'s result can be read off a walk from any working registers: none carries anything into it (R31). -/
theorem destuff_from (b : List Byte) (w : Work) :
    destuff b =
      if b.isEmpty then .error { kind := .framing, cause := .empty }
      else
        match Work.walk b.length (w.load b) with
        | (_, .raises c) => .error { kind := .framing, cause := c }
        | (w', _) => .ok w'.pay := by
  unfold destuff
  have h : (w.load b).sameWalk (Work.reset.load b) := ⟨rfl, rfl, rfl⟩
  obtain ⟨he, hw⟩ := Work.walk_sameWalk b.length h
  rcases hb : Work.walk b.length (w.load b) with ⟨w1, e⟩
  rcases hb' : Work.walk b.length (Work.reset.load b) with ⟨v1, e'⟩
  rw [hb, hb'] at he hw
  obtain rfl : e = e' := he
  cases e <;> simp_all [Work.sameWalk]

end Machine
end Sys2Proof
end

