-- ==== Sys2Proof/Laws/PerInstr.lean ====
section
/-! SUPPORT. A fact about every well-formed operation as syntax: it has bits exactly if some place selects it by them, and then it has
one byte (the formats RXBYTE and COBSCODE are eight bits wide, EVENT and FUNCTION have none). -/

namespace Sys2Proof
namespace Laws
namespace HasBits

def Statement (i : Instr) : Prop :=
  i.wf = true → (encode i).length ≤ 1 ∧ (encode i ≠ [] ↔ ∃ slot, i.selectedBy slot = true)

theorem rxIdle : Statement .rxIdle :=
  fun _ => ⟨by decide, by simpa [encode] using ⟨.rx true false, rfl⟩⟩
theorem rxEnd : Statement .rxEnd :=
  fun _ => ⟨by decide, by simpa [encode] using ⟨.rx false false, rfl⟩⟩
theorem rxAccum (b : Byte) : Statement (.rxAccum b) :=
  fun _ => ⟨by simp [encode], by simpa [encode] using ⟨.rx true false, rfl⟩⟩
theorem rxOvf (b : Byte) : Statement (.rxOvf b) :=
  fun _ => ⟨by simp [encode], by simpa [encode] using ⟨.rx false true, rfl⟩⟩
theorem rxTimeout : Statement .rxTimeout := fun _ => ⟨by decide, by simp [encode, Instr.selectedBy]⟩
theorem rxStop : Statement .rxStop := fun _ => ⟨by decide, by simp [encode, Instr.selectedBy]⟩
theorem rxLost : Statement .rxLost := fun _ => ⟨by decide, by simp [encode, Instr.selectedBy]⟩
theorem cobsZero : Statement .cobsZero :=
  fun _ => ⟨by decide, by simpa [encode] using ⟨.code 1, rfl⟩⟩
theorem cobsRun (c : Byte) : Statement (.cobsRun c) :=
  fun _ => ⟨by simp [encode], by simpa [encode] using ⟨.code c.toNat, by simp [Instr.selectedBy]⟩⟩
theorem cobsFull : Statement .cobsFull :=
  fun _ => ⟨by decide, by simpa [encode] using ⟨.code 255, rfl⟩⟩
theorem cobsOverrun (c : Byte) : Statement (.cobsOverrun c) := by
  intro h
  have hc : c ≠ 0x00 := by simpa [Instr.wf] using h
  have hn : c.toNat ≠ 0 := fun h0 => hc (BitVec.eq_of_toNat_eq h0)
  refine ⟨by simp [encode], fun _ => ⟨.code 0, ?_⟩, fun _ => by simp [encode]⟩
  simpa [Instr.selectedBy] using Nat.pos_of_ne_zero hn
theorem destuff (s : List Byte) : Statement (.destuff s) := fun _ => ⟨by simp [encode], by simp [encode, Instr.selectedBy]⟩
theorem stuff (b : List Byte) : Statement (.stuff b) := fun _ => ⟨by simp [encode], by simp [encode, Instr.selectedBy]⟩
theorem crc32 (b : List Byte) : Statement (.crc32 b) := fun _ => ⟨by simp [encode], by simp [encode, Instr.selectedBy]⟩
theorem crc32Byte (crc : Word32) (x : Byte) : Statement (.crc32Byte crc x) :=
  fun _ => ⟨by simp [encode], by simp [encode, Instr.selectedBy]⟩
theorem verify (b : List Byte) (x : Word32) : Statement (.verify b x) :=
  fun _ => ⟨by simp [encode], by simp [encode, Instr.selectedBy]⟩
theorem check (pay : List Byte) : Statement (.check pay) := fun _ => ⟨by simp [encode], by simp [encode, Instr.selectedBy]⟩
theorem pipeline (s : List Byte) : Statement (.pipeline s) := fun _ => ⟨by simp [encode], by simp [encode, Instr.selectedBy]⟩
theorem read (s : List Byte) : Statement (.read s) := fun _ => ⟨by simp [encode], by simp [encode, Instr.selectedBy]⟩
theorem writeE (e : List Byte) : Statement (.writeE e) := fun _ => ⟨by simp [encode], by simp [encode, Instr.selectedBy]⟩
theorem write (m : Message) : Statement (.write m) := fun _ => ⟨by simp [encode], by simp [encode, Instr.selectedBy]⟩

end HasBits
end Laws
end Sys2Proof
end

