-- ==== Sys2Proof/Laws/Pipeline.lean ====
section
/-! SUPPORT. The pipeline as one composition, and what closing a frame does. -/

namespace Sys2Proof
namespace Machine

/-- R91: de-stuff, then check; a raise of the first ends it. -/
theorem pipeline_eq (short : ShortKind) (b : List Byte) :
    pipeline short b = (destuff b).bind (check short) := by
  unfold pipeline
  cases destuff b <;> rfl

/-- R91, R92: closing a frame that did not overflow emits the pipeline's outcome and clears, whatever the outcome. -/
theorem State.closeFrame_outcome {s : State} (h : s.ovf = false) :
    s.closeFrame = (s.release.emit (outcomeEvent (pipeline s.params.shortKind s.buf))).clear := by
  rw [State.closeFrame, h]
  cases pipeline s.params.shortKind s.buf <;> rfl

/-- R93: closing an overflowed frame. -/
theorem State.closeFrame_overflow {s : State} (h : s.ovf = true) :
    s.closeFrame = (s.emit (.error .framing .overflow)).clear := by
  rw [State.closeFrame, h]
  rfl

end Machine
end Sys2Proof
end

