-- ==== Sys2Proof/Laws/Step.lean ====
section
/-! SUPPORT. The step, said once: it waits, runs the selected operation, or does what the caller asks. -/

namespace Sys2Proof
namespace Machine

theorem step_wait {s : State} (h : s.pending = []) : step s = .next s := by
  simp [step, h]

theorem step_runs {s : State} {a : Action} {rest : List Action} {i : Instr} (h : s.pending = a :: rest)
    (hi : (s.consume rest).instrOf a = some i) : step s = exec i (s.consume rest) := by
  simp [step, h, hi]

theorem step_host {s : State} {a : Action} {rest : List Action} (h : s.pending = a :: rest)
    (hi : (s.consume rest).instrOf a = none) : step s = .next ((s.consume rest).hostAct a) := by
  simp [step, h, hi]

/-- Everything a step that answers `t` can have done. -/
theorem step_cases {s t : State} (h : step s = .next t) :
    (s.pending = [] ∧ t = s) ∨
      ∃ a rest, s.pending = a :: rest ∧
        ((∃ i, (s.consume rest).instrOf a = some i ∧ exec i (s.consume rest) = .next t) ∨
          ((s.consume rest).instrOf a = none ∧ t = (s.consume rest).hostAct a)) := by
  cases hp : s.pending with
  | nil =>
    rw [step_wait hp] at h
    exact .inl ⟨rfl, by injection h with h; exact h.symm⟩
  | cons a rest =>
    refine .inr ⟨a, rest, rfl, ?_⟩
    cases hi : (s.consume rest).instrOf a with
    | none =>
      rw [step_host hp hi] at h
      exact .inr ⟨rfl, by injection h with h; exact h.symm⟩
    | some i =>
      rw [step_runs hp hi] at h
      exact .inl ⟨i, rfl, h⟩

/-- A byte event selects one of the four operations of R52. -/
theorem State.instrOf_byte (s : State) (b : Byte) :
    s.instrOf (.event (.byte b)) = some (decodeRx s.bufEmpty s.bufFull b) := rfl

end Machine
end Sys2Proof
end

