-- ==== Sys2Proof/Tests/Slice0.lean ====
section
/-! SUPPORT. The model's own tests. Expected values are taken from the examples of spec/ rules and from the vectors of
95_test_vectors.md, named at each test; the witnesses show that the hypotheses of the statements can be met together, at
the ends of their ranges. -/

namespace Sys2Proof
namespace Tests

open Sys2Proof.Machine

/-! ### Small states -/

/-- A block that has accumulated `b`. -/
def acc (b : List Byte) : State := { State.reset with fsm := .accumulating, buf := b }

/-- The same with `BUF_CAP = cap`. -/
def accCap (cap : Nat) (b : List Byte) : State :=
  { acc b with params := { bufCap := some cap, shortKind := .framing } }

/-- A de-stuffer at index `i` of `src` with the payload `pay` so far, one block a step. -/
def walkAt (src : List Byte) (i : Nat) (pay : List Byte) : State :=
  { State.reset with work := { Work.reset with src := src, i := i, pay := pay }, walking := true }

def stoppedAt (b : List Byte) : State := { acc b with fsm := .stopped }

/-- `p` holds of the next state an outcome answers. -/
def after (o : Host.Outcome State Fault Refusal) (p : State → Bool) : Bool :=
  match o with
  | .next t => p t
  | .fault _ => false
  | .refused _ => false

/-- The value given back is `r`. -/
def givesBack (o : Host.Outcome State Fault Refusal) (r : Ret) : Bool := after o fun t => t.ret == some r

/-- 254 bytes `AA`, the longest run (95_test_vectors.md B13). -/
def fullRun : List Byte := List.replicate 254 0xAA

/-- A codec for the witnesses: a message is its number written in unary. -/
def unaryCodec : Codec := { encode := fun m => List.replicate m.tag 0x01, decode := fun e => some ⟨e.length⟩ }

/-! ### Well-formedness: one ill-formed operation for each check -/

theorem test_wf_rejects_zero_accum : (Instr.rxAccum 0x00).wf = false := by decide
theorem test_wf_rejects_zero_ovf : (Instr.rxOvf 0x00).wf = false := by decide
theorem test_wf_rejects_zero_run : (Instr.cobsRun 0x00).wf = false := by decide
theorem test_wf_rejects_full_run : (Instr.cobsRun 0xFF).wf = false := by decide
theorem test_wf_rejects_zero_overrun : (Instr.cobsOverrun 0x00).wf = false := by decide
theorem test_wf_accepts_longest_run : (Instr.cobsRun 0xFE).wf = true := by decide

/-! ### Decoding, words written out from R52 and R53 -/

theorem test_decode_rx_idle : decodeTableWord 8 0b00000000 = some .rxIdle := by decide
theorem test_decode_rx_accum : decodeTableWord 8 0b00000001 = some (.rxAccum 0x01) := by decide
theorem test_decode_rx_end : decodeRx false true 0b00000000 = .rxEnd := by decide
theorem test_decode_rx_ovf : decodeRx false true 0b11111111 = .rxOvf 0xFF := by decide
theorem test_decode_cobs_zero : decodeCode 7 0b00000000 = .cobsZero := by decide
theorem test_decode_cobs_run_fits : decodeCode 254 0b11111110 = .cobsRun 0xFE := by decide
theorem test_decode_cobs_full_fits : decodeCode 255 0b11111111 = .cobsFull := by decide
theorem test_decode_cobs_overrun_by_one : decodeCode 254 0b11111111 = .cobsOverrun 0xFF := by decide
theorem test_decode_no_byte : decode (.rx true false) [] = .error .noByte := rfl
theorem test_decode_leaves_the_rest : decode (.code 5) [0x03, 0x11, 0x22] = .ok (.cobsRun 0x03, [0x11, 0x22]) := rfl
theorem test_encode_cobs_full : encode .cobsFull = [0b11111111] := by decide
theorem test_no_word_of_no_bits : decodeTableWord 0 0 = none := by decide

/-! ### The frame delimiter -/

/-- P3 step 4: an idle marker. -/
theorem test_rx_idle : after (exec .rxIdle State.reset) (fun t => t == State.reset) = true := by decide

/-- R91, the example. -/
theorem test_rx_end_message :
    after (exec .rxEnd (acc [0x06, 0xF6, 0x86, 0xDC, 0xB8, 0xA4]))
      (fun t => t.output == [.message [0xF6]] && t.fsm == .idle && t.buf == []) = true := by decide +kernel

/-- P3 step 3. -/
theorem test_rx_end_overrun :
    after (exec .rxEnd (acc [0x41, 0x42]))
      (fun t => t.output == [.error .framing .overrun] && t.fsm == .idle && t.buf == []) = true := by decide +kernel

/-- R88, the example. -/
theorem test_rx_accum_first :
    after (exec (.rxAccum 0x0B) State.reset)
      (fun t => t.fsm == .accumulating && t.buf == [0x0B] && t.output == []) = true := by decide

/-- R93: a frame of exactly `BUF_CAP` bytes does not overflow. -/
theorem test_rx_accum_last_place :
    after (exec (.rxAccum 0x47) (accCap 3 [0x0B, 0x65])) (fun t => t.buf == [0x0B, 0x65, 0x47] && !t.ovf) = true := by
  decide

/-- P5 step 10, with a smaller `BUF_CAP`. -/
theorem test_rx_ovf_drops :
    after (exec (.rxOvf 0xF4) (accCap 2 [0x0B, 0x65])) (fun t => t.buf == [0x0B, 0x65] && t.ovf) = true := by decide

/-- P5 step 13: the overflowed frame is reported without de-stuffing. -/
theorem test_rx_end_overflow :
    after (exec .rxEnd { accCap 1 [0x01] with ovf := true })
      (fun t => t.output == [.error .framing .overflow] && t.buf == [] && !t.ovf) = true := by decide

/-- P4 step 5. -/
theorem test_rx_timeout :
    after (exec .rxTimeout (acc [0x06, 0xF6, 0x86])) (fun t => t == acc [0x06, 0xF6, 0x86]) = true := by decide

/-- P4 step 14. -/
theorem test_rx_stop :
    after (exec .rxStop (acc [0x06, 0xA0, 0x04]))
      (fun t => t.fsm == .stopped && t.output == [.exited] && t.buf == [0x06, 0xA0, 0x04]) = true := by decide

/-- P7 step 5. -/
theorem test_rx_lost :
    after (exec .rxLost (acc [0x06, 0xF6, 0x86]))
      (fun t => t.fsm == .stopped && t.output == [.transportLost] && t.buf == [0x06, 0xF6, 0x86]) = true := by decide

/-- P4 step 16: a sentinel in `Stopped`. -/
theorem test_stopped_ignores :
    after (step { stoppedAt [0x06, 0xA0, 0x04] with pending := [.event (.byte 0x00)] })
      (fun t => t == stoppedAt [0x06, 0xA0, 0x04]) = true := by decide

/-! ### The COBS unit -/

/-- X8, the zero at a code position. -/
theorem test_cobs_zero :
    givesBack (exec .cobsZero (walkAt [0x02, 0x11, 0x00] 2 [0x11, 0x00])) (.raised ⟨.framing, .zeroCode⟩) = true := by
  decide

/-- The trace of 95_test_vectors.md section 2.4, first block. -/
theorem test_cobs_run_between :
    after (exec (.cobsRun 0x03) (walkAt [0x03, 0x11, 0x22, 0x02, 0x33] 0 []))
      (fun t => t.work.i == 3 && t.work.pay == [0x11, 0x22, 0x00] && t.walking) = true := by decide

/-- The same trace, last block: nothing follows it. -/
theorem test_cobs_run_last :
    givesBack (exec (.cobsRun 0x02) (walkAt [0x03, 0x11, 0x22, 0x02, 0x33] 3 [0x11, 0x22, 0x00]))
      (.bytes [0x11, 0x22, 0x00, 0x33]) = true := by decide

/-- B14, first block: no zero byte follows a full block though more input does. -/
theorem test_cobs_full_no_zero :
    after (exec .cobsFull (walkAt (0xFF :: fullRun ++ [0x02, 0xAA]) 0 []))
      (fun t => t.work.i == 255 && t.work.pay == fullRun && t.walking) = true := by decide +kernel

/-- X7: one byte short of a full block. -/
theorem test_cobs_full_short_refused :
    after (exec .cobsFull (walkAt (0xFF :: fullRun.tail) 0 [])) (fun _ => true) = false := by decide +kernel

/-- X3, the smallest overrun. -/
theorem test_cobs_overrun :
    givesBack (exec (.cobsOverrun 0x02) (walkAt [0x02] 0 [])) (.raised ⟨.framing, .overrun⟩) = true := by decide

/-- B15: a zero after a full run. -/
theorem test_destuff_zero_after_full :
    givesBack (exec (.destuff (0xFF :: fullRun ++ [0x01, 0x01])) State.reset) (.bytes (fullRun ++ [0x00])) = true := by
  decide +kernel

/-- X11: the overrun is tested before the data bytes. -/
theorem test_destuff_overrun_first :
    givesBack (exec (.destuff [0x05, 0x11, 0x00, 0x33]) State.reset) (.raised ⟨.framing, .overrun⟩) = true := by decide

/-- B9, trailing zeros. -/
theorem test_stuff_trailing_zeros :
    givesBack (exec (.stuff [0x11, 0x00, 0x00, 0x00]) State.reset) (.bytes [0x02, 0x11, 0x01, 0x01, 0x01]) = true := by
  decide

/-- B14: 255 bytes without a zero. -/
theorem test_stuff_past_full :
    givesBack (exec (.stuff (fullRun ++ [0xAA])) State.reset) (.bytes (0xFF :: fullRun ++ [0x02, 0xAA])) = true := by
  decide +kernel

/-! ### The integrity checker -/

/-- C2, the check string. -/
theorem test_crc32_check_string :
    givesBack (exec (.crc32 [0x31, 0x32, 0x33, 0x34, 0x35, 0x36, 0x37, 0x38, 0x39]) State.reset)
      (.word 0xCBF43926) = true := by decide +kernel

/-- C1. -/
theorem test_crc32_empty : givesBack (exec (.crc32 []) State.reset) (.word 0x00000000) = true := by decide

/-- R73, the example. -/
theorem test_crc32_byte :
    givesBack (exec (.crc32Byte 0xFFFFFFFF 0x61) State.reset) (.word 0x174841BC) = true := by decide +kernel

/-- 95_test_vectors.md section 3, `VERIFY`. -/
theorem test_verify_equal : givesBack (exec (.verify [0xF6] 0x86DCB8A4) State.reset) (.flag true) = true := by
  decide +kernel
theorem test_verify_different : givesBack (exec (.verify [0xF6] 0x86DCB8A5) State.reset) (.flag false) = true := by
  decide +kernel

/-- R80, the example. -/
theorem test_check_passes :
    givesBack (exec (.check [0xF6, 0x86, 0xDC, 0xB8, 0xA4]) State.reset) (.bytes [0xF6]) = true := by decide +kernel

/-- K7 with the other `SHORT_KIND`. -/
theorem test_check_short :
    givesBack (exec (.check [0x11, 0x22, 0x33])
      { State.reset with params := { bufCap := none, shortKind := .integrity } })
      (.raised ⟨.integrity, .shortPayload⟩) = true := by decide

/-- R82, the payload with its checksum: no fixed residue. -/
theorem test_crc32_no_residue :
    crc32 [0x31, 0x32, 0x33, 0x34, 0x35, 0x36, 0x37, 0x38, 0x39, 0xCB, 0xF4, 0x39, 0x26] = 0x3CC9742C := by
  decide +kernel

/-! ### The pipeline and the writer -/

/-- K1. -/
theorem test_pipeline_mismatch :
    givesBack (exec (.pipeline [0x0B, 0x65, 0x53, 0x54, 0x41, 0x52, 0x54, 0x47, 0xF4, 0x5F, 0x97]) State.reset)
      (.event (.error .integrity .crcMismatch)) = true := by decide +kernel

/-- K6. -/
theorem test_pipeline_short :
    givesBack (exec (.pipeline [0x01]) State.reset) (.event (.error .framing .shortPayload)) = true := by decide

/-- K8, read: the raise is passed on. -/
theorem test_read_raises :
    givesBack (exec (.read [0x06, 0xF6, 0x86, 0xDC]) State.reset) (.raised ⟨.framing, .overrun⟩) = true := by
  decide +kernel

/-- R98 (a) with a concrete codec: the frame of the message of number 2. -/
theorem test_read_decodes :
    readResult unaryCodec .framing (stuff (payloadOf (unaryCodec.encode ⟨2⟩))) = .message ⟨2⟩ := by decide +kernel

/-- F1, the shortest frame. -/
theorem test_write_e_empty :
    givesBack (exec (.writeE []) State.reset) (.bytes [0x00, 0x01, 0x01, 0x01, 0x01, 0x01, 0x00]) = true := by
  decide +kernel

/-- F4: a zero byte in `E`. -/
theorem test_write_e_zero :
    givesBack (exec (.writeE [0x00]) State.reset) (.bytes [0x00, 0x01, 0x05, 0xD2, 0x02, 0xEF, 0x8D, 0x00]) = true := by
  decide +kernel

/-- R101 with a concrete codec: the message of number 0 has the shortest frame (F1). -/
theorem test_write_message :
    writeMessage unaryCodec ⟨0⟩ = [0x00, 0x01, 0x01, 0x01, 0x01, 0x01, 0x00] := by decide +kernel

/-! ### The step -/

/-- P1 step 2, as the first step after reset. -/
theorem test_step_runs_the_word :
    after (step (State.reset.withFetchWord 8 0x0B)) (fun t => t.buf == [0x0B] && t.pending == []) = true := by decide

/-- R127: the caller's reset discards a partial frame, without an event. -/
theorem test_step_reset :
    after (step { stoppedAt [0x06] with pending := [.reset] }) (fun t => t == State.reset) = true := by decide

/-- R53: a block of a walk is decoded where the walk stands. -/
theorem test_step_walks :
    after (step { walkAt [0x02, 0x11, 0x01] 2 [0x11, 0x00] with pending := [.walkBlock] })
      (fun t => t.ret == some (.bytes [0x11, 0x00]) && !t.walking) = true := by decide

/-- The memory of the reset state is in its canonical form. -/
theorem test_reset_memory_wf : Memory.wf State.reset.bufCells = true := by decide

/-! ### Witnesses for the hypotheses of the statements -/

theorem witness_encoded_rx : (Instr.rxOvf 0x01).wf = true ∧ (Instr.rxOvf 0x01).selectedBy (.rx false true) = true := by
  decide
theorem witness_encoded_code : (Instr.cobsRun 0xFE).wf = true ∧ (Instr.cobsRun 0xFE).selectedBy (.code 254) = true := by
  decide
theorem witness_encoded_overrun :
    (Instr.cobsOverrun 0xFF).wf = true ∧ (Instr.cobsOverrun 0xFF).selectedBy (.code 254) = true := by decide

def presented (s : State) (a : Action) : State := { s with pending := [a] }

theorem witness_step_byte :
    (presented (acc [0x01]) (.event (.byte 0x00))).pending = .event (.byte 0x00) :: [] ∧
      decode (.rx (acc [0x01]).bufEmpty (acc [0x01]).bufFull) [0x00] = .ok (.rxEnd, []) := ⟨rfl, rfl⟩
theorem witness_step_timeout : (presented State.reset (.event .timeout)).pending = .event .timeout :: [] := rfl
theorem witness_step_stop : (presented State.reset (.event .stop)).pending = .event .stop :: [] := rfl
theorem witness_step_lost : (presented State.reset (.event .lost)).pending = .event .lost :: [] := rfl
theorem witness_step_walk :
    (presented (walkAt [0x01] 0 []) .walkBlock).pending = .walkBlock :: [] ∧ (walkAt [0x01] 0 []).walking = true ∧
      decode (.code 1) ((walkAt [0x01] 0 []).work.src.drop 0) = .ok (.cobsRun 0x01, []) := ⟨rfl, rfl, rfl⟩
theorem witness_step_call : (presented State.reset (.call (.stuff []))).pending = .call (.stuff []) :: [] := rfl
theorem witness_step_wait : State.reset.pending = [] := rfl

/-- The last free place of the smallest buffer. -/
theorem witness_accum : (accCap 1 []).fsm ≠ .stopped ∧ (0x01 : Byte) ≠ 0x00 ∧
    ∀ cap ∈ (accCap 1 []).params.bufCap, (accCap 1 []).len < cap := by decide
theorem witness_accum_unbounded : State.reset.fsm ≠ .stopped ∧ (0xFF : Byte) ≠ 0x00 ∧
    ∀ cap ∈ State.reset.params.bufCap, State.reset.len < cap := by decide
theorem witness_idle : State.reset.fsm ≠ .stopped ∧ State.reset.len = 0 := by decide
theorem witness_end_message : (acc [0x01, 0x01, 0x01, 0x01, 0x01]).fsm ≠ .stopped ∧
    0 < (acc [0x01, 0x01, 0x01, 0x01, 0x01]).len ∧ (acc [0x01, 0x01, 0x01, 0x01, 0x01]).ovf = false ∧
    pipeline .framing [0x01, 0x01, 0x01, 0x01, 0x01] = .ok [] := ⟨by decide, by decide, rfl, by rfl⟩
theorem witness_end_error : (acc [0x01]).fsm ≠ .stopped ∧ 0 < (acc [0x01]).len ∧ (acc [0x01]).ovf = false ∧
    pipeline .framing [0x01] = .error ⟨.framing, .shortPayload⟩ := ⟨by decide, by decide, rfl, by rfl⟩
theorem witness_ovf_drop : (accCap 1 [0x01]).fsm ≠ .stopped ∧ (0x01 : Byte) ≠ 0x00 ∧
    ∃ cap ∈ (accCap 1 [0x01]).params.bufCap, (accCap 1 [0x01]).len = cap := ⟨by decide, by decide, 1, rfl, rfl⟩
theorem witness_ovf_end : { accCap 1 [0x01] with ovf := true }.fsm ≠ .stopped ∧
    0 < State.len { accCap 1 [0x01] with ovf := true } ∧ { accCap 1 [0x01] with ovf := true }.ovf = true := by decide
theorem witness_running : (acc [0x01]).fsm ≠ .stopped := by decide
theorem witness_stopped : (presented (stoppedAt [0x01]) (.event .lost)).fsm = .stopped ∧
    (presented (stoppedAt [0x01]) (.event .lost)).pending = .event .lost :: [] := ⟨rfl, rfl⟩

theorem witness_refused_idle : (acc [0x01]).fsm ≠ .stopped ∧ 0 < (acc [0x01]).len := by decide
theorem witness_refused_end : State.reset.fsm ≠ .stopped ∧ State.reset.len = 0 := by decide
theorem witness_refused_accum : (accCap 1 [0x01]).fsm ≠ .stopped ∧
    ((0x01 : Byte) = 0x00 ∨ ∃ cap ∈ (accCap 1 [0x01]).params.bufCap, cap ≤ (accCap 1 [0x01]).len) :=
  ⟨by decide, .inr ⟨1, rfl, Nat.le_refl 1⟩⟩
theorem witness_refused_ovf : (accCap 2 [0x01]).fsm ≠ .stopped ∧
    ((0x01 : Byte) = 0x00 ∨ ∀ cap ∈ (accCap 2 [0x01]).params.bufCap, (accCap 2 [0x01]).len < cap) := by decide
theorem witness_refused_run : (0x02 : Byte) = 0x00 ∨ (0x02 : Byte) = 0xFF ∨
    (walkAt [0x02] 0 []).work.src.length < (walkAt [0x02] 0 []).work.i + (0x02 : Byte).toNat := by decide
theorem witness_refused_full :
    (walkAt fullRun 0 []).work.src.length < (walkAt fullRun 0 []).work.i + 255 := by decide +kernel
theorem witness_refused_overrun : (0x01 : Byte) = 0x00 ∨
    (walkAt [0x01] 0 []).work.i + (0x01 : Byte).toNat ≤ (walkAt [0x01] 0 []).work.src.length := by decide

theorem witness_run_between : (0x01 : Byte) ≠ 0x00 ∧ (0x01 : Byte) ≠ 0xFF ∧
    0 + (0x01 : Byte).toNat ≤ (walkAt [0x01, 0x01] 0 []).work.src.length ∧
    [] = ((walkAt [0x01, 0x01] 0 []).work.src.drop 1).take ((0x01 : Byte).toNat - 1) ∧ (0x00 : Byte) ∉ ([] : List Byte) ∧
    0 + (0x01 : Byte).toNat < (walkAt [0x01, 0x01] 0 []).work.src.length := by decide
theorem witness_run_last : (0x02 : Byte) ≠ 0x00 ∧ (0x02 : Byte) ≠ 0xFF ∧
    0 + (0x02 : Byte).toNat ≤ (walkAt [0x02, 0x11] 0 []).work.src.length ∧
    [0x11] = ((walkAt [0x02, 0x11] 0 []).work.src.drop 1).take ((0x02 : Byte).toNat - 1) ∧ (0x00 : Byte) ∉ [(0x11 : Byte)] ∧
    0 + (0x02 : Byte).toNat = (walkAt [0x02, 0x11] 0 []).work.src.length := by decide
theorem witness_full_between : 0 + 255 ≤ (walkAt (0xFF :: fullRun ++ [0x01]) 0 []).work.src.length ∧
    fullRun = ((walkAt (0xFF :: fullRun ++ [0x01]) 0 []).work.src.drop 1).take 254 ∧ 0x00 ∉ fullRun ∧
    0 + 255 < (walkAt (0xFF :: fullRun ++ [0x01]) 0 []).work.src.length := by decide +kernel
theorem witness_full_last : 0 + 255 ≤ (walkAt (0xFF :: fullRun) 0 []).work.src.length ∧
    fullRun = ((walkAt (0xFF :: fullRun) 0 []).work.src.drop 1).take 254 ∧ 0x00 ∉ fullRun ∧
    0 + 255 = (walkAt (0xFF :: fullRun) 0 []).work.src.length := by decide +kernel
theorem witness_overrun : (0x02 : Byte) ≠ 0x00 ∧
    (walkAt [0x02] 0 []).work.src.length < (walkAt [0x02] 0 []).work.i + (0x02 : Byte).toNat := by decide
theorem witness_zero_data_run : (0x02 : Byte) ≠ 0x00 ∧ (0x02 : Byte) ≠ 0xFF ∧
    0 + (0x02 : Byte).toNat ≤ (walkAt [0x02, 0x00] 0 []).work.src.length ∧
    0x00 ∈ ((walkAt [0x02, 0x00] 0 []).work.src.drop 1).take ((0x02 : Byte).toNat - 1) := by decide
theorem witness_zero_data_full : 0 + 255 ≤ (walkAt (0xFF :: fullRun.tail ++ [0x00]) 0 []).work.src.length ∧
    0x00 ∈ ((walkAt (0xFF :: fullRun.tail ++ [0x00]) 0 []).work.src.drop 1).take 254 := by decide +kernel

theorem witness_destuff_returns : destuff [0x01] = .ok [] := rfl
theorem witness_destuff_raises : destuff [0x00] = .error ⟨.framing, .zeroCode⟩ := rfl
theorem witness_walk : ([0x01] : List Byte) ≠ [] := by decide
theorem witness_zero_free_fails : ([0x02] : List Byte) ≠ [] ∧ 0x00 ∉ ([0x02] : List Byte) ∧
    destuff [0x02] = .error ⟨.framing, .overrun⟩ := ⟨by decide, by decide, rfl⟩
theorem witness_stuff_zero_free : fullRun ≠ [] ∧ 0x00 ∉ fullRun := by decide +kernel
theorem witness_crc_byte : (0x174841BC : Word32) =
    (fun c : Word32 => if c.getLsbD 0 = true then (c >>> 1) ^^^ 0xEDB88320 else c >>> 1)^[8]
      ((0xFFFFFFFF : Word32) ^^^ (0x61 : Byte).setWidth 32) := by decide +kernel
theorem witness_linear : ([0x01] : List Byte).length = ([0xFF] : List Byte).length := rfl
theorem witness_check_short : ([0x11, 0x22, 0x33] : List Byte).length < 4 := by decide
theorem witness_check_passes : 4 ≤ ([0x00, 0x00, 0x00, 0x00] : List Byte).length ∧
    crc32 (([0x00, 0x00, 0x00, 0x00] : List Byte).take 0) = ube32 (([0x00, 0x00, 0x00, 0x00] : List Byte).drop 0) := by
  decide
theorem witness_check_fails : 4 ≤ ([0x11, 0x00, 0x00, 0x00] : List Byte).length ∧
    crc32 (([0x11, 0x00, 0x00, 0x00] : List Byte).take 0) ≠ ube32 (([0x11, 0x00, 0x00, 0x00] : List Byte).drop 0) := by
  decide
theorem witness_flip_last : 0 < ([0x01] : List Byte).length ∧ 7 < 8 := by decide
theorem witness_flip_checksum : 31 < 32 := by decide
theorem witness_pipeline_returns : destuff [0x01, 0x01, 0x01, 0x01, 0x01] = .ok [0, 0, 0, 0] ∧
    check .framing [0, 0, 0, 0] = .ok [] := ⟨by rfl, by rfl⟩
theorem witness_pipeline_check_raises : destuff [0x01] = .ok [] ∧
    check .integrity [] = .error ⟨.integrity, .shortPayload⟩ := ⟨by rfl, by rfl⟩
theorem witness_mismatch_frame : (acc [0x02, 0x11, 0x01, 0x01, 0x01]).fsm ≠ .stopped ∧
    0 < (acc [0x02, 0x11, 0x01, 0x01, 0x01]).len ∧ (acc [0x02, 0x11, 0x01, 0x01, 0x01]).ovf = false ∧
    pipeline .framing [0x02, 0x11, 0x01, 0x01, 0x01] = .error ⟨.integrity, .crcMismatch⟩ :=
  ⟨by decide, by decide, rfl, by rfl⟩
theorem witness_round_trips : unaryCodec.roundTrips ⟨3⟩ := rfl

theorem witness_frames : State.synced { State.reset with params := ⟨some 5, .framing⟩ } ∧
    ∀ e ∈ [([] : List Byte), []],
      State.roomFor { State.reset with params := ⟨some 5, .framing⟩ } (stuff (e ++ be32 (crc32 e))).length := by decide
theorem witness_stray : (accCap 5 [0x41]).fsm ≠ .stopped ∧ (accCap 5 [0x41]).buf ≠ [] ∧
    (accCap 5 [0x41]).roomFor (stuff ([] ++ be32 (crc32 []))).length := by decide
theorem witness_frame_fits : State.synced { State.reset with params := ⟨some 1, .framing⟩ } ∧
    Params.wf ⟨some 1, .framing⟩ = true ∧ ([0x01] : List Byte) ≠ [] ∧ 0x00 ∉ ([0x01] : List Byte) ∧
    State.roomFor { State.reset with params := ⟨some 1, .framing⟩ } 1 := by decide
theorem witness_frame_overflows : State.synced { State.reset with params := ⟨some 1, .framing⟩ } ∧
    ([0x01, 0x01] : List Byte) ≠ [] ∧ 0x00 ∉ ([0x01, 0x01] : List Byte) ∧
    ∃ cap ∈ (⟨some 1, .framing⟩ : Params).bufCap, cap < ([0x01, 0x01] : List Byte).length :=
  ⟨by decide, by decide, by decide, 1, rfl, by decide⟩

/-- A state that meets the invariant with the buffer full and the flag set, and a step of it. -/
theorem witness_invariant_step :
    State.Inv { presented (accCap 1 [0x01]) (.event (.byte 0x00)) with ovf := true } ∧
      step { presented (accCap 1 [0x01]) (.event (.byte 0x00)) with ovf := true } =
        .next { accCap 1 [] with fsm := .idle, output := [.error .framing .overflow] } := ⟨by decide, by rfl⟩
/-- An error of each other cause that the block can report, from a state that meets the invariant. -/
theorem witness_reports_overrun : State.Inv (presented (acc [0x41]) (.event (.byte 0x00))) ∧
    after (step (presented (acc [0x41]) (.event (.byte 0x00))))
      (fun t => t.output == [.error .framing .overrun]) = true := by decide
theorem witness_reports_short : State.Inv (presented (acc [0x01]) (.event (.byte 0x00))) ∧
    after (step (presented (acc [0x01]) (.event (.byte 0x00))))
      (fun t => t.output == [.error .framing .shortPayload]) = true := by decide
theorem witness_reports_mismatch :
    State.Inv (presented (acc [0x02, 0x11, 0x01, 0x01, 0x01]) (.event (.byte 0x00))) ∧
      after (step (presented (acc [0x02, 0x11, 0x01, 0x01, 0x01]) (.event (.byte 0x00))))
        (fun t => t.output == [.error .integrity .crcMismatch]) = true := by decide +kernel
theorem witness_reset_params : Params.wf ⟨some 1, .integrity⟩ = true := by decide
theorem witness_caller_reset : (presented (stoppedAt [0x01]) .reset).pending = .reset :: [] := rfl
theorem witness_event_stop : step (presented State.reset (.event .stop)) =
    .next { State.reset with fsm := .stopped, output := [.exited] } := rfl
theorem witness_event_lost : step (presented State.reset (.event .lost)) =
    .next { State.reset with fsm := .stopped, output := [.transportLost] } := rfl
theorem witness_no_event : step (presented State.reset (.event (.byte 0x00))) = .next State.reset := rfl
theorem witness_leaves_stopped : step (presented (stoppedAt [0x01]) .reset) = .next State.reset := rfl
theorem witness_harmless : State.Inv (acc [0x01]) ∧ (acc [0x01]).fsm ≠ .stopped ∧
    (∀ e ∈ [InputEvent.timeout, .byte 0x00], e.harmless = true) ∧
    [InputEvent.timeout, .byte 0x00].getLast? = some (.byte 0x00) := by decide
theorem witness_two_synced : State.synced State.reset ∧ State.synced { State.reset with output := [.exited] } ∧
    State.reset.params = { State.reset with output := [.exited] }.params := by decide
theorem witness_work : (presented State.reset (.call (.crc32 []))).pending.head? ≠ some .walkBlock ∧
    step (presented State.reset (.call (.crc32 []))) =
      .next (State.reset.afterCall (Work.free 0) (.word 0)) :=
  ⟨by decide, by rfl⟩

end Tests
end Sys2Proof
end

/-! The values of the reset state (10_state.md, R37), one rule per field, and the obligation that states them together. -/

namespace Sys2Proof
namespace Machine

@[simp] theorem State.reset_fsm : State.reset.fsm = .idle := rfl
@[simp] theorem State.reset_buf : State.reset.buf = [] := rfl
@[simp] theorem State.reset_ovf : State.reset.ovf = false := rfl
@[simp] theorem State.reset_output : State.reset.output = [] := rfl

/-- R25, R37: `len` is the length of the buffer, and the buffer is empty. -/
theorem State.reset_len : State.reset.len = 0 := by
  rw [State.len, State.reset_buf, List.length_nil]

end Machine

open Machine

/-- Settles O50: each value is the reset state's rule for that field. -/
theorem resetValues : Obligations.ResetValues :=
  ⟨State.reset_fsm, State.reset_len, State.reset_ovf, State.reset_output⟩

end Sys2Proof

/-! What a sequence of COBS blocks decodes to (R50, R57), without the registers: a relation between stuffed input and
payload that `DESTUFF` computes and that `STUFF` inverts. R70 puts the two together. -/

namespace Sys2Proof
namespace Machine

/-! ### A block and its code byte -/

/-- R68: the code byte of the block that carries `g`. -/
def blockCode (g : List Byte) : Byte := BitVec.ofNat 8 (g.length + 1)

theorem cobsBlock_eq (g : List Byte) : cobsBlock g = blockCode g :: g := rfl

theorem blockCode_toNat {g : List Byte} (h : g.length ≤ Config.maxRun) : (blockCode g).toNat = g.length + 1 := by
  simp only [Config.maxRun] at h
  simp only [blockCode, BitVec.toNat_ofNat]
  omega

theorem blockCode_ne_zero {g : List Byte} (h : g.length ≤ Config.maxRun) : blockCode g ≠ 0x00 := by
  intro h0
  have hn := blockCode_toNat h
  simp [h0] at hn

theorem blockCode_eq_codeFull_iff {g : List Byte} (h : g.length ≤ Config.maxRun) :
    blockCode g = Config.codeFull ↔ g.length = Config.maxRun := by
  simp [← BitVec.toNat_inj, blockCode_toNat h, Config.codeFull, Config.maxRun]

/-- R53: a block that fits is a full one or a run, by the number of its data bytes. -/
theorem classifyCode_blockCode {g : List Byte} {room : Nat} (h : g.length ≤ Config.maxRun) (hroom : g.length < room) :
    classifyCode room (blockCode g) = if g.length = Config.maxRun then .full else .run := by
  have hfits : ¬ room < (blockCode g).toNat := by
    rw [blockCode_toNat h]
    omega
  rw [classifyCode, if_neg (blockCode_ne_zero h), if_neg hfits]
  simp only [blockCode_eq_codeFull_iff h]

/-! ### The decoding relation -/

/-- R58: the zero byte that stands between a segment and the bytes `rest` after it, unless the input ends there. -/
def impliedZero (rest : List Byte) : List Byte := if rest = [] then [] else [0x00]

@[simp] theorem impliedZero_nil : impliedZero [] = [] := rfl

theorem impliedZero_of_ne_nil {rest : List Byte} (h : rest ≠ []) : impliedZero rest = [0x00] := if_neg h

/-- R64: what the boundary between the block of `g` and the bytes `rest` after it stands for; after a full block,
nothing. -/
def boundary (g rest : List Byte) : List Byte := if g.length = Config.maxRun then [] else impliedZero rest

theorem boundary_full {g : List Byte} (h : g.length = Config.maxRun) (rest : List Byte) : boundary g rest = [] :=
  if_pos h

theorem boundary_run {g : List Byte} (h : g.length ≠ Config.maxRun) (rest : List Byte) :
    boundary g rest = impliedZero rest := if_neg h

/-- `Decodes s p`: `s` is a sequence of blocks of zero-free data that carries the payload `p`. -/
inductive Decodes : List Byte → List Byte → Prop where
  | nil : Decodes [] []
  | block {g rest p : List Byte} : 0x00 ∉ g → g.length ≤ Config.maxRun → Decodes rest p →
      Decodes (cobsBlock g ++ rest) (g ++ boundary g rest ++ p)

theorem Decodes.zero_free {s p : List Byte} (h : Decodes s p) : 0x00 ∉ s := by
  induction h with
  | nil => exact List.not_mem_nil
  | block hz hlen _ ih =>
    simp only [cobsBlock_eq, List.mem_append, List.mem_cons, not_or]
    exact ⟨⟨(blockCode_ne_zero hlen).symm, hz⟩, ih⟩

theorem Decodes.payload_of_nil {p : List Byte} (h : Decodes [] p) : p = [] := by
  generalize hs : ([] : List Byte) = s at h
  cases h with
  | nil => rfl
  | block => simp [cobsBlock_eq] at hs

/-! ### The walk computes it -/

section
variable {w : Work} {g rest : List Byte}

theorem Work.src_of_block (hw : w.src.drop w.i = cobsBlock g ++ rest) :
    w.src[w.i]? = some (blockCode g) ∧ w.src.drop (w.i + 1) = g ++ rest ∧
      w.src.length = w.i + (g.length + 1) + rest.length := by
  refine ⟨?_, ?_, ?_⟩
  · rw [← List.head?_drop, hw]
    rfl
  · rw [← List.tail_drop, hw]
    rfl
  · have hl := congrArg List.length hw
    simp only [List.length_drop, cobsBlock_eq, List.length_append, List.length_cons] at hl
    omega

theorem Work.data_of_block (hlen : g.length ≤ Config.maxRun) (hw : w.src.drop w.i = cobsBlock g ++ rest) :
    w.data (blockCode g) = g := by
  obtain ⟨-, hdata, -⟩ := Work.src_of_block hw
  simp [Work.data, runLength, blockCode_toNat hlen, hdata]

theorem Work.drop_of_block (hw : w.src.drop w.i = cobsBlock g ++ rest) :
    w.src.drop (w.i + (g.length + 1)) = rest := by
  rw [← List.drop_drop, hw]
  exact List.drop_left' rfl

/-- R58, R59: one pass over a well-formed block delivers its data and what its boundary stands for, and moves past it. -/
theorem Work.block_of_block (hz : 0x00 ∉ g) (hlen : g.length ≤ Config.maxRun)
    (hw : w.src.drop w.i = cobsBlock g ++ rest) :
    ∃ k', w.block (blockCode g) =
      ({ w with code := blockCode g, k := k', i := w.i + (g.length + 1), pay := w.pay ++ (g ++ boundary g rest) },
        if rest = [] then .returns else .goesOn) := by
  obtain ⟨-, -, hsrc⟩ := Work.src_of_block hw
  have hd := Work.data_of_block hlen hw
  have hmore : w.i + (g.length + 1) < w.src.length ↔ rest ≠ [] := by
    rw [← List.length_pos_iff]
    omega
  rw [Work.block, classifyCode_blockCode hlen (by omega)]
  by_cases hfull : g.length = Config.maxRun
  · have hc : blockCode g = Config.codeFull := (blockCode_eq_codeFull_iff hlen).2 hfull
    rw [hc] at hd ⊢
    obtain ⟨k', hk⟩ := Work.blockFull_ok (hd.symm ▸ hz)
    rw [hd, show 255 = g.length + 1 by rw [hfull]; rfl] at hk
    exact ⟨k', by simp only [hk, hmore, if_pos hfull, boundary_full hfull, List.append_nil, ite_not]⟩
  · obtain ⟨k', hk⟩ := Work.blockRun_ok (hd.symm ▸ hz)
    rw [hd, blockCode_toNat hlen] at hk
    refine ⟨k', ?_⟩
    by_cases hr : rest = []
    · simp [hfull, hk, hmore, boundary_run, hr]
    · simp [hfull, hk, hmore, boundary_run, impliedZero_of_ne_nil, hr]

end

/-- R57: from any index whose remaining input decodes to `p`, the walk returns with `p` added to the payload. -/
theorem Decodes.walk {s p : List Byte} (h : Decodes s p) {fuel : Nat} {w : Work} (hw : w.src.drop w.i = s)
    (hfuel : s.length ≤ fuel) : ∃ w', Work.walk fuel w = (w', .returns) ∧ w'.pay = w.pay ++ p := by
  induction h generalizing fuel w with
  | nil =>
    refine ⟨w, ?_, by simp⟩
    have hend : w.src[w.i]? = none := by
      rw [← List.head?_drop, hw]
      rfl
    cases fuel with
    | zero => rfl
    | succ n => rw [Work.walk, hend]
  | @block g rest p hz hlen hp ih =>
    cases fuel with
    | zero => simp [cobsBlock_eq] at hfuel
    | succ n =>
      obtain ⟨hc, -, -⟩ := Work.src_of_block hw
      obtain ⟨k', hb⟩ := Work.block_of_block hz hlen hw
      simp only [Work.walk, hc, hb]
      by_cases hr : rest = []
      · subst hr
        exact ⟨_, rfl, by rw [hp.payload_of_nil, List.append_nil]⟩
      · have hn : rest.length ≤ n := by
          simp only [cobsBlock_eq, List.length_append, List.length_cons] at hfuel
          omega
        simp only [if_neg hr]
        refine (ih (Work.drop_of_block hw) hn).imp fun w' ⟨hwalk, hpay⟩ => ⟨hwalk, ?_⟩
        rw [hpay, List.append_assoc]

/-- R57: `DESTUFF` returns the payload of a non-empty sequence of blocks. -/
theorem Decodes.destuff {s p : List Byte} (h : Decodes s p) (hs : s ≠ []) : destuff s = .ok p := by
  obtain ⟨w', hwalk, hpay⟩ := h.walk (w := Work.reset.load s) rfl (Nat.le_refl s.length)
  have hp : w'.pay = p := hpay
  simp [Machine.destuff, hs, hwalk, hp]

/-! ### The stuffed form decodes to its payload -/

theorem segments_ne_nil (b : List Byte) : segments b ≠ [] := by
  cases b with
  | nil => simp [segments]
  | cons x xs =>
    rw [segments]
    split
    · simp
    · split <;> simp

theorem segments_cons (x : Byte) (xs : List Byte) :
    segments (x :: xs) = if x = 0x00 then [] :: segments xs else (segments xs).modifyHead (x :: ·) := by
  obtain ⟨g, gs, hg⟩ := List.exists_cons_of_ne_nil (segments_ne_nil xs)
  rw [segments, hg]
  rfl

/-- R68: no segment holds a zero byte. -/
theorem zero_free_of_mem_segments (b : List Byte) : ∀ g ∈ segments b, 0x00 ∉ g := by
  induction b with
  | nil => simp [segments]
  | cons x xs ih =>
    obtain ⟨g, gs, hg⟩ := List.exists_cons_of_ne_nil (segments_ne_nil xs)
    rw [hg, List.forall_mem_cons] at ih
    obtain ⟨hz, hzs⟩ := ih
    rw [segments_cons, hg]
    split_ifs with hx
    · exact List.forall_mem_cons.2 ⟨List.not_mem_nil, List.forall_mem_cons.2 ⟨hz, hzs⟩⟩
    · exact List.forall_mem_cons.2 ⟨List.not_mem_cons_of_ne_of_not_mem (Ne.symm hx) hz, hzs⟩

/-- R68: the cut at the zero bytes is the library's `splitOn`. -/
theorem segments_eq_splitOn (b : List Byte) : segments b = b.splitOn 0x00 := by
  induction b with
  | nil => rfl
  | cons x xs ih => simp only [segments_cons, List.splitOn_cons_eq_if_modifyHead, ih, beq_iff_eq]

/-- R68: with a zero byte between each segment and the next, the segments are the input again. -/
theorem intercalate_segments (b : List Byte) : [0x00].intercalate (segments b) = b := by
  rw [segments_eq_splitOn, List.intercalate_splitOn]

/-- R68: the block of 254 data bytes is the one the stuffer writes with `CODE_FULL`. -/
theorem cobsBlock_full {g : List Byte} (h : g.length = Config.maxRun) : cobsBlock g = Config.codeFull :: g := by
  rw [cobsBlock_eq, (blockCode_eq_codeFull_iff h.le).2 h]

/-- R68: a segment's stuffed form, before what follows it, decodes to the segment and the zero byte implied there. -/
theorem Decodes.segFuel {rest p : List Byte} (h : Decodes rest p) {fuel : Nat} {g : List Byte} (hz : 0x00 ∉ g)
    (hfuel : g.length ≤ fuel) :
    Decodes (segFuel fuel g rest.isEmpty ++ rest) (g ++ impliedZero rest ++ p) := by
  induction fuel generalizing g with
  | zero =>
    obtain rfl : g = [] := List.length_eq_zero_iff.1 (Nat.le_zero.1 hfuel)
    exact .block hz (Nat.zero_le _) h
  | succ n ih =>
    rw [Machine.segFuel]
    split_ifs with hrun hlast
    · rw [← boundary_run hrun.ne rest]
      exact .block hz hrun.le h
    · obtain ⟨hfull, hr⟩ := hlast
      obtain rfl : rest = [] := List.isEmpty_iff.1 hr
      have hb := Decodes.block hz hfull.le h
      rwa [cobsBlock_full hfull, boundary_full hfull] at hb
    · have hfull : (g.take Config.maxRun).length = Config.maxRun := List.length_take_of_le (not_lt.1 hrun)
      have hn : (g.drop Config.maxRun).length ≤ n := by
        simp only [List.length_drop, Config.maxRun]
        omega
      have hb := Decodes.block (fun hm => hz (List.mem_of_mem_take hm)) hfull.le
        (ih (fun hm => hz (List.mem_of_mem_drop hm)) hn)
      rw [cobsBlock_full hfull, boundary_full hfull] at hb
      simpa only [List.append_nil, List.append_assoc, ← List.append_assoc (g.take _) (g.drop _),
        List.take_append_drop] using hb

theorem segFuel_ne_nil (fuel : Nat) (g : List Byte) (last : Bool) : segFuel fuel g last ≠ [] := by
  cases fuel with
  | zero => simp [segFuel, cobsBlock_eq]
  | succ n =>
    rw [segFuel]
    split_ifs <;> simp [cobsBlock_eq]

theorem stuffSegments_eq_nil_iff (gs : List (List Byte)) : stuffSegments gs = [] ↔ gs = [] := by
  match gs with
  | [] => simp [stuffSegments]
  | [g] => simp [stuffSegments, seg, segFuel_ne_nil]
  | g :: g' :: gs => simp [stuffSegments, seg, segFuel_ne_nil]

/-- R68: the last segment is the one with nothing after it. -/
theorem stuffSegments_cons (g : List Byte) (gs : List (List Byte)) :
    stuffSegments (g :: gs) = seg g (stuffSegments gs).isEmpty ++ stuffSegments gs := by
  cases gs with
  | nil => simp [stuffSegments]
  | cons g' gs =>
    rw [List.isEmpty_eq_false_iff.2 (mt (stuffSegments_eq_nil_iff _).1 (List.cons_ne_nil g' gs))]
    rfl

/-- R68: the stuffed forms of zero-free segments decode to the segments with a zero byte between each and the next. -/
theorem decodes_stuffSegments {gs : List (List Byte)} (hz : ∀ g ∈ gs, 0x00 ∉ g) :
    Decodes (stuffSegments gs) ([0x00].intercalate gs) := by
  induction gs with
  | nil => exact .nil
  | cons g gs ih =>
    obtain ⟨hg, hgs⟩ := List.forall_mem_cons.1 hz
    have hd := (ih hgs).segFuel hg (Nat.le_refl g.length)
    rw [stuffSegments_cons, seg]
    by_cases h : gs = []
    · subst h
      simpa [stuffSegments] using hd
    · have hne : stuffSegments gs ≠ [] := mt (stuffSegments_eq_nil_iff gs).1 h
      rwa [impliedZero_of_ne_nil hne, ← List.intercalate_cons_of_ne_nil h] at hd

theorem decodes_stuff (b : List Byte) : Decodes (stuff b) b := by
  have h := decodes_stuffSegments (zero_free_of_mem_segments b)
  rwa [intercalate_segments] at h

theorem stuff_ne_nil (b : List Byte) : stuff b ≠ [] :=
  mt (stuffSegments_eq_nil_iff _).1 (segments_ne_nil b)

end Machine

open Machine

/-- Settles O21: the stuffed form is a non-empty sequence of blocks that decodes to its payload, the walk of `DESTUFF`
returns what such a sequence decodes to, and no such sequence holds a zero byte. -/
theorem destuffUndoesStuff : Obligations.DestuffUndoesStuff :=
  fun b => ⟨(decodes_stuff b).destuff (stuff_ne_nil b), (decodes_stuff b).zero_free⟩

end Sys2Proof

/-! The checksum tells apart inputs that differ in one byte (42_crc32.md sections 1 to 3). No linearity is needed: every
update of the CRC register is injective, in the register and in the byte. -/

namespace Sys2Proof
namespace Machine

/-! ### The updates of the CRC register are injective -/

/-- R73: the bit shifted out comes back as the top bit, which the shift leaves clear and the polynomial sets. -/
theorem crcShift_getLsbD_31 (crc : Word32) : (crcShift crc).getLsbD 31 = crc.getLsbD 0 := by
  rw [crcShift]
  split_ifs with h
  · rw [h]
    simp [Config.crcPoly]
  · rw [Bool.eq_false_of_not_eq_true h]
    simp

/-- Bit 0 is the only one that a right shift by one loses. -/
theorem eq_of_ushiftRight_one_eq {w : Nat} {a b : BitVec w} (h0 : a.getLsbD 0 = b.getLsbD 0)
    (h : a >>> 1 = b >>> 1) : a = b := by
  refine BitVec.eq_of_getLsbD_eq fun i _ => ?_
  cases i with
  | zero => exact h0
  | succ i => simpa [Nat.add_comm] using congrArg (·.getLsbD i) h

theorem crcShift_injective : Function.Injective crcShift := by
  intro a b h
  have h0 : a.getLsbD 0 = b.getLsbD 0 := by
    rw [← crcShift_getLsbD_31 a, h, crcShift_getLsbD_31]
  refine eq_of_ushiftRight_one_eq h0 ?_
  simp only [crcShift, h0] at h
  split at h
  · exact (BitVec.xor_left_inj _).1 h
  · exact h

theorem crcShifts_injective (n : Nat) : Function.Injective (crcShifts n) := by
  induction n with
  | zero => exact Function.injective_id
  | succ n ih => exact ih.comp crcShift_injective

theorem crcByte_left_inj {crc crc' : Word32} {x : Byte} : crcByte crc x = crcByte crc' x ↔ crc = crc' := by
  rw [crcByte, crcByte, (crcShifts_injective 8).eq_iff, BitVec.xor_left_inj]

theorem crcByte_right_inj {crc : Word32} {x y : Byte} : crcByte crc x = crcByte crc y ↔ x = y := by
  rw [crcByte, crcByte, (crcShifts_injective 8).eq_iff, BitVec.xor_right_inj]
  refine ⟨fun h => ?_, congrArg _⟩
  simpa using congrArg (·.setWidth 8) h

theorem crcFold_left_inj {crc crc' : Word32} {b : List Byte} : crcFold crc b = crcFold crc' b ↔ crc = crc' := by
  induction b generalizing crc crc' with
  | nil => rfl
  | cons x xs ih => exact ih.trans crcByte_left_inj

/-- R72: two inputs that differ in one byte only have different checksums. -/
theorem crc32_append_cons_inj {pre post : List Byte} {x y : Byte} :
    crc32 (pre ++ x :: post) = crc32 (pre ++ y :: post) ↔ x = y := by
  simp only [crc32, crcRegister, BitVec.xor_left_inj, crcFold, List.foldl_append, List.foldl_cons]
  exact crcFold_left_inj.trans crcByte_right_inj

/-! ### One inverted bit -/

theorem xor_twoPow_ne {w q : Nat} (v : BitVec w) (hq : q < w) : v ^^^ BitVec.twoPow w q ≠ v := by
  intro h
  simpa [hq] using congrArg (·.getLsbD q) h

/-- R81: the inverted bit lies in one byte, and everything before and after it stays. -/
theorem crc32_flipBit_ne {e : List Byte} {j q : Nat} (hj : j < e.length) (hq : q < 8) :
    crc32 (flipBit e j q) ≠ crc32 e := by
  have he : e = e.take j ++ e[j] :: e.drop (j + 1) := by simp
  rw [flipBit, List.modify_eq_take_cons_drop hj]
  conv_rhs => rw [he]
  exact mt crc32_append_cons_inj.1 (xor_twoPow_ne e[j] hq)

/-! ### `CHECK` on bytes followed by a checksum field -/

theorem be32_length (v : Word32) : (be32 v).length = Config.cksumLen := rfl

/-- R21, R51 (b): each bit of the value lies in exactly one of the four bytes. -/
theorem ube32_be32 (v : Word32) : ube32 (be32 v) = v := by
  ext i hi
  simp only [ube32, be32, List.foldl_cons, List.foldl_nil, BitVec.getElem_or, BitVec.getElem_shiftLeft,
    BitVec.getElem_setWidth, BitVec.getLsbD_extractLsb']
  grind

theorem messageBytes_append_be32 (e : List Byte) (v : Word32) : messageBytes (e ++ be32 v) = e := by
  simp [messageBytes, be32_length]

theorem checksumField_append_be32 (e : List Byte) (v : Word32) : checksumField (e ++ be32 v) = be32 v := by
  simp [checksumField, be32_length]

/-- R80: with a four-byte checksum field, the length test passes and only the comparison decides. -/
theorem check_append_be32 (short : ShortKind) (e : List Byte) (v : Word32) :
    check short (e ++ be32 v) = if crc32 e = v then .ok e else .error ⟨.integrity, .crcMismatch⟩ := by
  have hlen : ¬ (e ++ be32 v).length < Config.cksumLen := by
    simp [be32_length]
  rw [check, if_neg hlen, messageBytes_append_be32, checksumField_append_be32, ube32_be32]
  simp [verify]

end Machine

open Machine

/-- Settles O37: one inverted bit changes the checksum of `E`, or the checksum field, and not both, so `CHECK` finds them
different. -/
theorem singleBitErrorsAreCaught : Obligations.SingleBitErrorsAreCaught := by
  refine ⟨fun short e j q hj hq => ?_, fun short e q hq => ?_⟩
  · rw [check_append_be32, if_neg (crc32_flipBit_ne hj hq)]
  · rw [check_append_be32, if_neg (xor_twoPow_ne _ hq).symm]

end Sys2Proof

/-! The frame delimiter in a running block (44_frame_reader.md sections 1 to 3): one rule for each input event's operation
where the table's condition selects it (R86). -/

namespace Sys2Proof
namespace Machine

/-! ### The operations where they are selected -/

section
variable {s : State} (hrun : s.fsm ≠ .stopped)
include hrun

theorem State.receive_of_selected {sel : Bool} (hsel : sel = true) (name : String) (t : State) :
    s.receive sel name t = .next t :=
  State.receive_next.mpr (.inr ⟨hrun, hsel, rfl⟩)

/-- R89. -/
theorem exec_rxIdle_of_buf_nil (hbuf : s.buf = []) : exec .rxIdle s = .next s :=
  State.receive_of_selected hrun (s.bufEmpty_iff.mpr hbuf) _ _

/-- R91. -/
theorem exec_rxEnd_of_buf_ne_nil (hbuf : s.buf ≠ []) : exec .rxEnd s = .next s.closeFrame := by
  have hempty : s.bufEmpty ≠ true := fun h => hbuf (s.bufEmpty_iff.mp h)
  exact State.receive_of_selected hrun (by simpa using hempty) _ _

/-- R88. -/
theorem exec_rxAccum_of_room {b : Byte} (hb : b ≠ Config.sentinel) (hroom : ∀ cap ∈ s.params.bufCap, s.len < cap) :
    exec (.rxAccum b) s = .next { s.appendBuf b with fsm := .accumulating } := by
  have hsel : (b != Config.sentinel && !s.bufFull) = true := by simp [hb, s.not_bufFull_iff.mpr hroom]
  exact State.receive_of_selected hrun hsel _ _

/-- R94. -/
theorem exec_rxTimeout_of_running : exec .rxTimeout s = .next s :=
  State.receive_selected hrun _ _

end

/-! ### The end of a frame -/

/-- R90 to R93: overflowed or not, closing a frame ends by emitting one event, after whatever was emitted before, and
clearing. -/
theorem State.closeFrame_emits_then_clears (s : State) :
    ∃ (u : State) (o : OutputEvent), u.output = s.output ∧ s.closeFrame = (u.emit o).clear := by
  cases hovf : s.ovf with
  | true => exact ⟨s, _, rfl, State.closeFrame_overflow hovf⟩
  | false => exact ⟨s.release, _, s.release_output, State.closeFrame_outcome hovf⟩

end Machine

open Machine

/-- Settles O5: with room and a non-sentinel byte `RX.ACCUM` is selected, and its effect is the append. -/
theorem accumAppendsTheByte : Obligations.AccumAppendsTheByte :=
  fun _ _ hrun hb hroom => ⟨exec_rxAccum_of_room hrun hb hroom, List.length_append⟩

/-- Settles O6: with an empty buffer `RX.IDLE` is selected, and its effect is the same state. -/
theorem idleMarkerChangesNothing : Obligations.IdleMarkerChangesNothing :=
  fun _ hrun hlen => exec_rxIdle_of_buf_nil hrun (List.length_eq_zero_iff.mp hlen)

/-- Settles O8: whatever the outcome, the frame is closed by an emission and the clearing. -/
theorem everyEndOfFrameClears : Obligations.EveryEndOfFrameClears := by
  intro s hrun hlen
  obtain ⟨u, o, hout, hclose⟩ := s.closeFrame_emits_then_clears
  have hexec : exec .rxEnd s = .next (u.emit o).clear := by
    rw [exec_rxEnd_of_buf_ne_nil hrun (List.length_pos_iff.mp hlen), hclose]
  exact ⟨_, hexec, rfl, rfl, rfl, o, by simp [hout]⟩

/-- Settles O10: `RX.TIMEOUT` is selected in every running block, and its effect is the same state. -/
theorem timeoutChangesNothing : Obligations.TimeoutChangesNothing :=
  fun _ hrun => exec_rxTimeout_of_running hrun

end Sys2Proof

/-! What `DESTUFF` accepts (R50, R67) and what it raises (R60 to R62): every pass of the walk either raises or stands on a
block of zero-free data, so the walk returns on exactly what `Decodes` relates to a payload. -/

namespace Sys2Proof
namespace Machine

/-! ### One pass at any code byte -/

/-- R51 (a): as many data bytes as the code byte counts make a block with that code byte. -/
theorem cobsBlock_of_length {c : Byte} {d : List Byte} (h : d.length + 1 = c.toNat) : cobsBlock d = c :: d := by
  rw [cobsBlock, h, BitVec.ofNat_toNat, BitVec.setWidth_eq]

theorem length_le_maxRun {c : Byte} {d : List Byte} (h : d.length + 1 = c.toNat) : d.length ≤ Config.maxRun := by
  have hc : c.toNat < 256 := c.isLt
  simp only [Config.maxRun]
  omega

/-- R58 to R62: a pass raises, and then for no other cause than the overrun unless the input holds a zero byte, or it
stands on a block of zero-free data. -/
theorem Work.block_cases {w : Work} {c : Byte} {tail : List Byte} (hw : w.src.drop w.i = c :: tail) :
    (∃ cause, (w.block c).2 = .raises cause ∧ (0x00 ∉ c :: tail → cause = .overrun)) ∨
      ∃ g rest, 0x00 ∉ g ∧ g.length ≤ Config.maxRun ∧ c :: tail = cobsBlock g ++ rest := by
  have hroom : w.src.length - w.i = tail.length + 1 := by
    rw [← List.length_drop, hw, List.length_cons]
  have hdata : w.data c = tail.take (runLength c) := by
    rw [Work.data, ← List.tail_drop, hw, List.tail_cons]
  simp only [Work.block, hroom, classifyCode]
  by_cases hc : c = 0x00
  · exact .inl ⟨.zeroCode, by rw [if_pos hc, Work.blockZero], fun h => absurd (hc ▸ List.mem_cons_self) h⟩
  by_cases hfits : tail.length + 1 < c.toNat
  · exact .inl ⟨.overrun, by rw [if_neg hc, if_pos hfits, Work.blockOverrun], fun _ => rfl⟩
  by_cases hz : 0x00 ∈ w.data c
  · refine .inl ⟨.zeroData, ?_, fun h => absurd (List.mem_cons_of_mem c (List.mem_of_mem_take (hdata ▸ hz))) h⟩
    rw [if_neg hc, if_neg hfits]
    split_ifs with hfull
    · obtain ⟨_, _, hb⟩ := Work.blockFull_zero_data (hfull ▸ hz)
      simp [hb]
    · obtain ⟨_, _, hb⟩ := Work.block_zero_data hz
      simp [hb]
  · have hpos : c.toNat ≠ 0 := fun h0 => hc (BitVec.eq_of_toNat_eq h0)
    have hlen : (w.data c).length + 1 = c.toNat := by
      simp only [hdata, runLength, List.length_take]
      omega
    refine .inr ⟨w.data c, tail.drop (runLength c), hz, length_le_maxRun hlen, ?_⟩
    rw [cobsBlock_of_length hlen, hdata, List.cons_append, List.take_append_drop]

/-! ### The accepted set -/

/-- R57: the walk goes on behind a block that is not the last. -/
theorem Work.walk_past_block (n : Nat) {w : Work} {g rest : List Byte} (hz : 0x00 ∉ g) (hlen : g.length ≤ Config.maxRun)
    (hr : rest ≠ []) (hw : w.src.drop w.i = cobsBlock g ++ rest) :
    ∃ w1 : Work, w1.src.drop w1.i = rest ∧ Work.walk (n + 1) w = Work.walk n w1 := by
  obtain ⟨hc, -, -⟩ := Work.src_of_block hw
  obtain ⟨k', hb⟩ := Work.block_of_block hz hlen hw
  exact ⟨_, Work.drop_of_block hw, by simp only [Work.walk, hc, hb, if_neg hr]; rfl⟩

/-- R57, R67: with enough passes, the walk raises, or what is left of its input is a sequence of blocks. -/
theorem Work.walk_raises_or_decodes (fuel : Nat) {w : Work} (hfuel : w.src.length - w.i ≤ fuel) :
    (∃ w' cause, Work.walk fuel w = (w', .raises cause) ∧ (0x00 ∉ w.src.drop w.i → cause = .overrun)) ∨
      ∃ p, Decodes (w.src.drop w.i) p := by
  induction fuel generalizing w with
  | zero =>
    rw [List.drop_eq_nil_of_le (by omega)]
    exact .inr ⟨[], .nil⟩
  | succ n ih =>
    rcases hw : w.src.drop w.i with _ | ⟨c, tail⟩
    · exact .inr ⟨[], .nil⟩
    have hc : w.src[w.i]? = some c := by rw [← List.head?_drop, hw, List.head?_cons]
    rcases Work.block_cases hw with ⟨cause, hb, hcause⟩ | ⟨g, rest, hz, hlen, hblock⟩
    · rcases hr : w.block c with ⟨w', e⟩
      obtain rfl : e = .raises cause := by rw [← hb, hr]
      exact .inl ⟨w', cause, by simp only [Work.walk, hc, hr], hcause⟩
    · rw [hblock] at hw ⊢
      obtain ⟨-, -, hsrc⟩ := Work.src_of_block hw
      by_cases hr : rest = []
      · subst hr
        exact .inr ⟨_, .block hz hlen .nil⟩
      · obtain ⟨w1, hw1, hwalk⟩ := Work.walk_past_block n hz hlen hr hw
        have hn : w1.src.length - w1.i ≤ n := by
          rw [← List.length_drop, hw1]
          omega
        rw [hwalk]
        rcases hw1 ▸ ih hn with ⟨w', cause, hraise, hcause⟩ | ⟨p, hp⟩
        · exact .inl ⟨w', cause, hraise, fun h => hcause fun hm => h (List.mem_append_right _ hm)⟩
        · exact .inr ⟨_, .block hz hlen hp⟩

theorem destuff_nil : destuff [] = .error ⟨.framing, .empty⟩ := rfl

/-- R67: a non-empty input raises, or it is a sequence of blocks. -/
theorem destuff_raises_or_decodes {s : List Byte} (hs : s ≠ []) :
    (∃ cause, destuff s = .error ⟨.framing, cause⟩ ∧ (0x00 ∉ s → cause = .overrun)) ∨ ∃ p, Decodes s p := by
  rcases Work.walk_raises_or_decodes s.length (w := Work.reset.load s) (Nat.sub_le _ _) with
    ⟨w', cause, hwalk, hcause⟩ | hp
  · exact .inl ⟨cause, by simp [destuff, hs, hwalk], hcause⟩
  · exact .inr hp

/-- R57, R67: `DESTUFF` returns `p` on exactly the non-empty sequences of blocks that carry `p`. -/
theorem destuff_eq_ok_iff {s p : List Byte} : destuff s = .ok p ↔ s ≠ [] ∧ Decodes s p := by
  refine ⟨fun h => ?_, fun ⟨hs, hp⟩ => hp.destuff hs⟩
  have hs : s ≠ [] := by
    rintro rfl
    simp [destuff_nil] at h
  rcases destuff_raises_or_decodes hs with ⟨cause, hraise, -⟩ | ⟨p', hp⟩
  · simp [hraise] at h
  · obtain rfl : p' = p := Except.ok.inj ((hp.destuff hs).symm.trans h)
    exact ⟨hs, hp⟩

/-- R104: whatever `DESTUFF` raises is a framing error. -/
theorem destuff_error_kind {s : List Byte} {r : Raise} (h : destuff s = .error r) : r.kind = .framing := by
  by_cases hs : s = []
  · subst hs
    rw [← Except.error.inj h]
  · rcases destuff_raises_or_decodes hs with ⟨cause, hraise, -⟩ | ⟨p, hp⟩
    · rw [← Except.error.inj (hraise.symm.trans h)]
    · simp [hp.destuff hs] at h

/-- R26, R105: without a zero byte in the input nothing but the overrun is raised. -/
theorem destuff_zero_free_error {s : List Byte} {r : Raise} (hs : s ≠ []) (hz : 0x00 ∉ s) (h : destuff s = .error r) :
    r = ⟨.framing, .overrun⟩ := by
  rcases destuff_raises_or_decodes hs with ⟨cause, hraise, hcause⟩ | ⟨p, hp⟩
  · rw [hraise, hcause hz] at h
    exact (Except.error.inj h).symm
  · rw [hp.destuff hs] at h
    cases h

/-- R50: the format is the same set of sequences as the relation's. -/
theorem stuffedPayload_iff {s : List Byte} : StuffedPayload s ↔ s ≠ [] ∧ ∃ p, Decodes s p := by
  constructor
  · intro h
    induction h with
    | last c d _ hlen hz =>
      have hb := Decodes.block hz (length_le_maxRun hlen) .nil
      rw [cobsBlock_of_length hlen, List.append_nil] at hb
      exact ⟨List.cons_ne_nil c d, _, hb⟩
    | more c d rest _ hlen hz _ ih =>
      obtain ⟨-, p, hp⟩ := ih
      have hb := Decodes.block hz (length_le_maxRun hlen) hp
      rw [cobsBlock_of_length hlen] at hb
      exact ⟨List.cons_ne_nil c _, _, hb⟩
  · rintro ⟨hs, p, hp⟩
    induction hp with
    | nil => exact absurd rfl hs
    | @block g rest p hz hlen _ ih =>
      have hc := blockCode_ne_zero hlen
      have hn := (blockCode_toNat hlen).symm
      rw [cobsBlock_eq]
      by_cases hr : rest = []
      · rw [hr, List.append_nil]
        exact .last _ _ hc hn hz
      · exact .more _ _ _ hc hn hz (ih hr)

/-! ### Lengths -/

@[simp] theorem boundary_nil (g : List Byte) : boundary g [] = [] := by
  simp [boundary]

theorem boundary_length_cases (g : List Byte) {rest : List Byte} (h : rest ≠ []) :
    (g.length = Config.maxRun ∧ (boundary g rest).length = 0) ∨
      (g.length ≠ Config.maxRun ∧ (boundary g rest).length = 1) := by
  by_cases hfull : g.length = Config.maxRun
  · exact .inl ⟨hfull, by rw [boundary_full hfull, List.length_nil]⟩
  · exact .inr ⟨hfull, by rw [boundary_run hfull, impliedZero_of_ne_nil h, List.length_singleton]⟩

/-- R66: at least one byte less than the stuffed input, and at most one less for each 255 bytes begun. -/
theorem Decodes.length_bounds {s p : List Byte} (h : Decodes s p) :
    (s ≠ [] → p.length + 1 ≤ s.length) ∧ s.length ≤ p.length + (s.length + 254) / 255 := by
  induction h with
  | nil => simp
  | @block g rest p _ hlen hp ih =>
    obtain ⟨hlow, hup⟩ := ih
    simp only [cobsBlock_eq, List.length_append, List.length_cons]
    by_cases hr : rest = []
    · subst hr
      simp only [hp.payload_of_nil, boundary_nil, List.length_nil]
      omega
    · have hlow := hlow hr
      have hb := boundary_length_cases g hr
      simp only [Config.maxRun] at hlen hb
      omega

end Machine

open Machine

/-- Settles O23: both sides say that the input is a non-empty sequence of blocks of zero-free data. -/
theorem destuffAcceptsExactlyStuffedPayloads : Obligations.DestuffAcceptsExactlyStuffedPayloads := by
  intro s
  rw [stuffedPayload_iff]
  simp only [destuff_eq_ok_iff, exists_and_left]

/-- Settles O24: the bounds hold of every sequence of blocks. -/
theorem destuffLengthBounds : Obligations.DestuffLengthBounds := by
  intro s pay h
  obtain ⟨hs, hp⟩ := destuff_eq_ok_iff.1 h
  exact ⟨hp.length_bounds.1 hs, hp.length_bounds.2⟩

/-- Settles O25: the other causes need a zero byte, or the empty input. -/
theorem zeroFreeInputFailsOnlyByOverrun : Obligations.ZeroFreeInputFailsOnlyByOverrun :=
  fun _ _ hs hz h => destuff_zero_free_error hs hz h

end Sys2Proof

/-! The form `STUFF` produces, block by block (R68, decision D8): a short segment's block, a block before a zero byte, and
a full block before more data. What holds of every payload is then shown along these three. -/

namespace Sys2Proof
namespace Machine

/-! ### Every payload is made of the data of its blocks -/

/-- R68: a payload is the data of one block, or data of a short block and a zero byte before another payload, or the data
of a full block before another payload that is not empty. -/
theorem blockwise_induction {motive : List Byte → Prop}
    (last : ∀ g, 0x00 ∉ g → g.length ≤ Config.maxRun → motive g)
    (zero : ∀ g p, 0x00 ∉ g → g.length < Config.maxRun → motive p → motive (g ++ 0x00 :: p))
    (full : ∀ g p, 0x00 ∉ g → g.length = Config.maxRun → p ≠ [] → motive p → motive (g ++ p)) (b : List Byte) :
    motive b := by
  have h := decodes_stuff b
  generalize stuff b = s at h
  induction h with
  | nil => exact last [] List.not_mem_nil (Nat.zero_le _)
  | @block g rest p hz hlen hp ih =>
    by_cases hfull : g.length = Config.maxRun
    · rw [boundary_full hfull, List.append_nil]
      by_cases hp0 : p = []
      · simpa [hp0] using last g hz hlen
      · exact full g p hz hfull hp0 ih
    · by_cases hr : rest = []
      · subst hr
        simpa [hp.payload_of_nil] using last g hz hlen
      · rw [boundary_run hfull, impliedZero_of_ne_nil hr, List.append_assoc, List.singleton_append]
        exact zero g p hz (lt_of_le_of_ne hlen hfull) ih

/-! ### The cut into segments -/

theorem segments_append {g : List Byte} (hz : 0x00 ∉ g) (b : List Byte) :
    segments (g ++ b) = (segments b).modifyHead (g ++ ·) := by
  induction g with
  | nil => cases h : segments b <;> simp [h]
  | cons x xs ih =>
    obtain ⟨hx, hxs⟩ := not_or.1 (mt List.mem_cons.2 hz)
    rw [List.cons_append, segments_cons, if_neg (Ne.symm hx), ih hxs, List.modifyHead_modifyHead]
    rfl

theorem segments_zero_free {g : List Byte} (hz : 0x00 ∉ g) : segments g = [g] := by
  simpa [segments] using segments_append hz []

theorem segments_append_zero {g : List Byte} (hz : 0x00 ∉ g) (p : List Byte) :
    segments (g ++ 0x00 :: p) = g :: segments p := by
  simp [segments_append hz, segments_cons]

/-! ### A segment's blocks -/

theorem segFuel_congr {fuel fuel' : Nat} {g : List Byte} (last : Bool) (h : g.length ≤ fuel) (h' : g.length ≤ fuel') :
    segFuel fuel g last = segFuel fuel' g last := by
  induction fuel generalizing g fuel' with
  | zero =>
    obtain rfl : g = [] := List.length_eq_zero_iff.1 (Nat.le_zero.1 h)
    cases fuel' <;> rfl
  | succ n ih =>
    cases fuel' with
    | zero =>
      obtain rfl : g = [] := List.length_eq_zero_iff.1 (Nat.le_zero.1 h')
      rfl
    | succ n' =>
      simp only [segFuel]
      rw [ih (g := g.drop Config.maxRun) (fuel' := n')] <;> simp only [List.length_drop, Config.maxRun] <;> omega

theorem seg_short {g : List Byte} (h : g.length < Config.maxRun) (last : Bool) : seg g last = cobsBlock g := by
  rw [seg]
  cases hn : g.length with
  | zero => rfl
  | succ n => rw [segFuel, if_pos h]

theorem seg_full_last {g : List Byte} (h : g.length = Config.maxRun) : seg g true = cobsBlock g := by
  rw [seg, h, cobsBlock_full h]
  show segFuel (253 + 1) g true = _
  rw [segFuel, if_neg (by omega), if_pos ⟨h, rfl⟩]

/-- R68: a full block is cut off unless it ends the input. -/
theorem seg_append_full {g h : List Byte} {last : Bool} (hg : g.length = Config.maxRun) (hmore : h ≠ [] ∨ last = false) :
    seg (g ++ h) last = cobsBlock g ++ seg h last := by
  have hlen : (g ++ h).length = Config.maxRun + h.length := by rw [List.length_append, hg]
  have hnot : ¬ ((g ++ h).length = Config.maxRun ∧ last = true) := by
    rintro ⟨heq, hl⟩
    simp_all
  rw [seg, hlen, show Config.maxRun + h.length = (253 + h.length) + 1 by simp only [Config.maxRun]; omega, segFuel,
    if_neg (by omega), if_neg hnot, cobsBlock_full hg, List.take_left' hg, List.drop_left' hg, seg]
  rw [segFuel_congr last (Nat.le_add_left _ 253) (Nat.le_refl _)]

/-! ### The three cases of `STUFF` -/

theorem stuff_nil : stuff [] = [0x01] := rfl

theorem endsFull_nil : endsFull [] = false := rfl

section
variable {g : List Byte} (hz : 0x00 ∉ g)
include hz

theorem stuff_last (hlen : g.length ≤ Config.maxRun) : stuff g = cobsBlock g := by
  rw [stuff, segments_zero_free hz, stuffSegments]
  rcases Nat.lt_or_eq_of_le hlen with h | h
  · exact seg_short h true
  · exact seg_full_last h

theorem stuff_append_zero (hlen : g.length < Config.maxRun) (p : List Byte) :
    stuff (g ++ 0x00 :: p) = cobsBlock g ++ stuff p := by
  rw [stuff, segments_append_zero hz, stuffSegments_cons, seg_short hlen, stuff]

theorem stuff_append_full (hlen : g.length = Config.maxRun) {p : List Byte} (hp : p ≠ []) :
    stuff (g ++ p) = cobsBlock g ++ stuff p := by
  have hb := intercalate_segments p
  obtain ⟨h, hs, hseg⟩ := List.exists_cons_of_ne_nil (segments_ne_nil p)
  have hmore : h ≠ [] ∨ (stuffSegments hs).isEmpty = false := by
    by_contra! hnot
    obtain ⟨rfl, hlast⟩ := hnot
    have hhs : hs = [] := by simpa [stuffSegments_eq_nil_iff] using hlast
    rw [hseg, hhs] at hb
    exact hp hb.symm
  simp only [stuff, segments_append hz, hseg, List.modifyHead_cons, stuffSegments_cons, seg_append_full hlen hmore,
    List.append_assoc]

/-! ### The last block is full -/

theorem endsFull_last : endsFull g = (decide (0 < g.length) && decide (g.length % Config.maxRun = 0)) := by
  simp [endsFull, segments_zero_free hz]

theorem endsFull_append_zero (p : List Byte) : endsFull (g ++ 0x00 :: p) = endsFull p := by
  obtain ⟨h, hs, hseg⟩ := List.exists_cons_of_ne_nil (segments_ne_nil p)
  simp only [endsFull, segments_append_zero hz, hseg, List.getLast?_cons_cons]

theorem endsFull_append_full (hlen : g.length = Config.maxRun) {p : List Byte} (hp : p ≠ []) :
    endsFull (g ++ p) = endsFull p := by
  have hb := intercalate_segments p
  rw [endsFull, segments_append hz, endsFull]
  rcases hseg : segments p with _ | ⟨h, _ | ⟨h', hs⟩⟩
  · exact absurd hseg (segments_ne_nil p)
  · have hh : 0 < h.length := by
      rw [hseg] at hb
      exact List.length_pos_iff.2 fun h0 => hp (by rw [← hb, h0]; rfl)
    simp [hlen, hh]
  · simp [List.getLast?_cons]

end

/-! ### What decodes to a payload -/

/-- R67: a sequence of blocks is the stuffed form of its payload, or has one more empty block behind a last full one. -/
theorem Decodes.eq_stuff {s b : List Byte} (h : Decodes s b) (hs : s ≠ []) :
    s = stuff b ∨ (endsFull b = true ∧ s = stuff b ++ [0x01]) := by
  induction h with
  | nil => exact absurd rfl hs
  | @block g rest p hz hlen hp ih =>
    by_cases hr : rest = []
    · subst hr
      left
      simp [hp.payload_of_nil, stuff_last hz hlen]
    have ih := ih hr
    by_cases hfull : g.length = Config.maxRun
    · rw [boundary_full hfull, List.append_nil]
      by_cases hp0 : p = []
      · subst hp0
        have hrest : rest = [0x01] := by simpa [endsFull_nil, stuff_nil] using ih
        right
        simp [stuff_last hz hlen, endsFull_last hz, hfull, hrest, Config.maxRun]
      · rw [stuff_append_full hz hfull hp0, endsFull_append_full hz hfull hp0]
        simpa [List.append_assoc] using ih
    · rw [boundary_run hfull, impliedZero_of_ne_nil hr, List.append_assoc, List.singleton_append,
        stuff_append_zero hz (lt_of_le_of_ne hlen hfull), endsFull_append_zero hz]
      simpa [List.append_assoc] using ih

/-- R67: the empty block behind a last full block stands for nothing. -/
theorem decodes_stuff_append_one (b : List Byte) (hfull : endsFull b = true) : Decodes (stuff b ++ [0x01]) b := by
  induction b using blockwise_induction with
  | last g hz hlen =>
    have hg : g.length = Config.maxRun := by
      rw [endsFull_last hz, Bool.and_eq_true, decide_eq_true_eq, decide_eq_true_eq] at hfull
      simp only [Config.maxRun] at hfull hlen ⊢
      omega
    have hb := Decodes.block hz hlen (decodes_stuff [])
    rwa [boundary_full hg, List.append_nil, List.append_nil, stuff_nil, ← stuff_last hz hlen] at hb
  | zero g p hz hlen ih =>
    rw [endsFull_append_zero hz] at hfull
    have hb := Decodes.block hz hlen.le (ih hfull)
    rwa [boundary_run hlen.ne, impliedZero_of_ne_nil (by simp), ← List.append_assoc, ← stuff_append_zero hz hlen,
      List.append_assoc] at hb
  | full g p hz hlen hp ih =>
    rw [endsFull_append_full hz hlen hp] at hfull
    have hb := Decodes.block hz hlen.le (ih hfull)
    rwa [boundary_full hlen, List.append_nil, ← List.append_assoc, ← stuff_append_full hz hlen hp] at hb

/-! ### The length of the stuffed form -/

/-- R69: one byte more, and one more for each full block at most. -/
theorem stuff_length_bounds (b : List Byte) :
    b.length + 1 ≤ (stuff b).length ∧ (stuff b).length ≤ b.length + 1 + b.length / Config.maxRun := by
  induction b using blockwise_induction with
  | last g hz hlen =>
    simp only [stuff_last hz hlen, cobsBlock_eq, List.length_cons, Config.maxRun]
    omega
  | zero g p hz hlen ih =>
    simp only [stuff_append_zero hz hlen, cobsBlock_eq, List.length_append, List.length_cons, Config.maxRun] at ih ⊢
    omega
  | full g p hz hlen hp ih =>
    simp only [stuff_append_full hz hlen hp, cobsBlock_eq, List.length_append, List.length_cons, Config.maxRun]
      at ih hlen ⊢
    omega

/-- R69: without a zero byte, one byte for each 254 bytes begun. -/
theorem stuff_length_zero_free (b : List Byte) (hb : b ≠ []) (hz : 0x00 ∉ b) :
    (stuff b).length = b.length + (b.length + 253) / Config.maxRun := by
  induction b using blockwise_induction with
  | last g hz' hlen =>
    have hpos := List.length_pos_iff.2 hb
    simp only [stuff_last hz' hlen, cobsBlock_eq, List.length_cons, Config.maxRun] at hlen ⊢
    omega
  | zero g p => exact absurd (List.mem_append_right g List.mem_cons_self) hz
  | full g p hz' hlen hp ih =>
    have ih := ih hp fun h => hz (List.mem_append_right g h)
    simp only [stuff_append_full hz' hlen hp, cobsBlock_eq, List.length_append, List.length_cons, Config.maxRun]
      at ih hlen ⊢
    omega

/-! ### The one-pass form -/

/-- R68: bytes that do not fill the pending block are put into it. -/
theorem stuffPass_append {pend g : List Byte} (hz : 0x00 ∉ g) (hlen : pend.length + g.length < Config.maxRun)
    (b : List Byte) : stuffPass pend (g ++ b) = stuffPass (pend ++ g) b := by
  induction g generalizing pend with
  | nil => simp
  | cons x xs ih =>
    obtain ⟨hx, hxs⟩ := not_or.1 (mt List.mem_cons.2 hz)
    rw [List.length_cons] at hlen
    have hroom : (pend ++ [x]).length + xs.length < Config.maxRun := by
      rw [List.length_append, List.length_singleton]
      omega
    rw [List.cons_append, stuffPass, if_neg (Ne.symm hx), if_neg (by omega), ih hxs hroom, List.append_assoc,
      List.singleton_append]

/-- R68: the byte that fills the pending block ends it. -/
theorem stuffPass_append_full {g : List Byte} (hz : 0x00 ∉ g) (hlen : g.length = Config.maxRun) (b : List Byte) :
    stuffPass [] (g ++ b) = if b.isEmpty then cobsBlock g else cobsBlock g ++ stuffPass [] b := by
  rcases g.eq_nil_or_concat' with rfl | ⟨g, x, rfl⟩
  · simp [Config.maxRun] at hlen
  rw [List.length_append, List.length_singleton] at hlen
  have hg : 0x00 ∉ g := fun h => hz (List.mem_append_left _ h)
  have hx : x ≠ 0x00 := fun h => hz (h ▸ List.mem_append_right g List.mem_cons_self)
  rw [List.append_assoc, stuffPass_append hg (by rw [List.length_nil]; omega), List.singleton_append, List.nil_append,
    stuffPass, if_neg hx, if_pos hlen]

theorem stuffPass_nil_eq_stuff (b : List Byte) : stuffPass [] b = stuff b := by
  induction b using blockwise_induction with
  | last g hz hlen =>
    rw [stuff_last hz hlen]
    rcases Nat.lt_or_eq_of_le hlen with h | h
    · simpa [stuffPass] using stuffPass_append (pend := []) hz (by simpa using h) []
    · simpa using stuffPass_append_full hz h []
  | zero g p hz hlen ih =>
    rw [stuffPass_append hz (by simpa using hlen), stuff_append_zero hz hlen, List.nil_append, stuffPass, if_pos rfl, ih]
  | full g p hz hlen hp ih =>
    rw [stuffPass_append_full hz hlen, if_neg (by simpa using hp), stuff_append_full hz hlen hp, ih]

end Machine

open Machine

/-- Settles O22: the sequences of blocks that carry `b` are the stuffed form of `b` and, behind a last full block, the one
with an empty block more. -/
theorem destuffPreimagesOfAPayload : Obligations.DestuffPreimagesOfAPayload := by
  intro s b
  rw [destuff_eq_ok_iff]
  constructor
  · rintro ⟨hs, h⟩
    exact h.eq_stuff hs
  · rintro (rfl | ⟨hfull, rfl⟩)
    · exact ⟨stuff_ne_nil b, decodes_stuff b⟩
    · exact ⟨by simp, decodes_stuff_append_one b hfull⟩

/-- Settles O26: the lengths add up along the blocks. -/
theorem stuffLengthBounds : Obligations.StuffLengthBounds :=
  fun b => ⟨(stuff_length_bounds b).1, (stuff_length_bounds b).2, stuff_length_zero_free b⟩

/-- Settles O27: both forms write the same block in each of the three cases. -/
theorem onePassStufferAgrees : Obligations.OnePassStufferAgrees := stuffPass_nil_eq_stuff

end Sys2Proof

/-! The checksum as arithmetic over GF(2) (R74, R76), the big-endian conversions (R21), and what they make of `CHECK`
(R49), the pipeline and a written frame. -/

namespace Sys2Proof
namespace Machine

/-! ### Linearity -/

/-- A constant that enters twice cancels. -/
theorem xor_xor_xor_cancel (v v' p : Word32) : (v ^^^ p) ^^^ (v' ^^^ p) = v ^^^ v' := by
  rw [BitVec.xor_comm v' p, ← BitVec.xor_assoc, BitVec.xor_assoc v p p, BitVec.xor_self, BitVec.xor_zero]

theorem crcShift_xor (a b : Word32) : crcShift (a ^^^ b) = crcShift a ^^^ crcShift b := by
  simp only [crcShift, BitVec.getLsbD_xor, BitVec.ushiftRight_xor_distrib]
  cases a.getLsbD 0 <;> cases b.getLsbD 0
  · rfl
  · exact BitVec.xor_assoc _ _ _
  · simp only [Bool.bne_false, if_true, Bool.false_eq_true, if_false]
    ac_rfl
  · exact (xor_xor_xor_cancel _ _ _).symm

theorem crcShifts_xor (n : Nat) (a b : Word32) : crcShifts n (a ^^^ b) = crcShifts n a ^^^ crcShifts n b := by
  induction n generalizing a b with
  | zero => rfl
  | succ n ih => rw [crcShifts, crcShift_xor, ih, crcShifts, crcShifts]

theorem crcByte_xor (crc crc' : Word32) (x y : Byte) :
    crcByte (crc ^^^ crc') (x ^^^ y) = crcByte crc x ^^^ crcByte crc' y := by
  rw [crcByte, crcByte, crcByte, ← crcShifts_xor, BitVec.setWidth_xor]
  congr 1
  ac_rfl

theorem crcFold_xor {a b : List Byte} (hlen : a.length = b.length) (crc crc' : Word32) :
    crcFold crc a ^^^ crcFold crc' b = crcFold (crc ^^^ crc') (List.zipWith (· ^^^ ·) a b) := by
  induction a generalizing b crc crc' with
  | nil =>
    obtain rfl : b = [] := List.length_eq_zero_iff.1 hlen.symm
    rfl
  | cons x xs ih =>
    cases b with
    | nil => simp at hlen
    | cons y ys =>
      have hxs : xs.length = ys.length := Nat.succ.inj hlen
      simpa only [crcFold, List.foldl_cons, List.zipWith_cons_cons, crcByte_xor] using ih hxs (crcByte crc x) (crcByte crc' y)

/-! ### The table-driven update -/

/-- R73: while the bits shifted out are clear, the polynomial does not enter. -/
theorem crcShifts_of_low_clear {n : Nat} {v : Word32} (h : ∀ i < n, v.getLsbD i = false) : crcShifts n v = v >>> n := by
  induction n generalizing v with
  | zero => simp [crcShifts]
  | succ n ih =>
    have hshift : crcShift v = v >>> 1 := by
      rw [crcShift, h 0 (Nat.succ_pos n)]
      rfl
    have hlow : ∀ i < n, (v >>> 1).getLsbD i = false := by
      intro i hi
      rw [BitVec.getLsbD_ushiftRight]
      exact h (1 + i) (by omega)
    rw [crcShifts, hshift, ih hlow, ← BitVec.shiftRight_add, Nat.add_comm]

/-- R74: the low byte goes through the table, the rest is shifted. -/
theorem crcByte_eq_table (crc : Word32) (x : Byte) :
    crcByte crc x = (crc >>> 8) ^^^ crcTable ((crc ^^^ x.setWidth 32).setWidth 8) := by
  have hsplit : crc ^^^ x.setWidth 32 = ((crc >>> 8) <<< 8) ^^^ ((crc ^^^ x.setWidth 32).setWidth 8).setWidth 32 := by
    ext i hi
    simp only [BitVec.getElem_xor, BitVec.getElem_shiftLeft, BitVec.getElem_setWidth, BitVec.getLsbD_setWidth,
      BitVec.getLsbD_xor]
    grind
  have hhigh : crcShifts 8 ((crc >>> 8) <<< 8) = crc >>> 8 := by
    rw [crcShifts_of_low_clear fun i hi => by simp [hi]]
    ext i hi
    simp only [BitVec.getElem_ushiftRight, BitVec.getLsbD_shiftLeft]
    grind
  rw [crcByte, hsplit, crcShifts_xor, hhigh, ← hsplit, crcTable]

/-! ### The big-endian conversions -/

theorem ube32_eq_or (t0 t1 t2 t3 : Byte) :
    ube32 [t0, t1, t2, t3] =
      (t0.setWidth 32 <<< 24) ||| (t1.setWidth 32 <<< 16) ||| (t2.setWidth 32 <<< 8) ||| t3.setWidth 32 := by
  simp only [ube32, List.foldl_cons, List.foldl_nil, BitVec.shiftLeft_or_distrib, ← BitVec.shiftLeft_add]
  simp

theorem be32_ube32 (t0 t1 t2 t3 : Byte) : be32 (ube32 [t0, t1, t2, t3]) = [t0, t1, t2, t3] := by
  rw [ube32_eq_or]
  simp only [be32, List.cons.injEq, and_true]
  refine ⟨?_, ?_, ?_, ?_⟩ <;>
    (ext i hi
     simp only [BitVec.getElem_extractLsb', BitVec.getLsbD_or, BitVec.getLsbD_shiftLeft, BitVec.getLsbD_setWidth]
     grind)

/-! ### `CHECK` -/

theorem be32_ube32_of_length {t : List Byte} (h : t.length = Config.cksumLen) : be32 (ube32 t) = t := by
  match t, h with
  | [t0, t1, t2, t3], _ => exact be32_ube32 t0 t1 t2 t3

/-- R79: a payload of at least four bytes is its two parts. -/
theorem eq_append_be32 {pay : List Byte} (h : Config.cksumLen ≤ pay.length) :
    pay = messageBytes pay ++ be32 (ube32 (checksumField pay)) := by
  have hlen : (checksumField pay).length = Config.cksumLen := by
    rw [checksumField, List.length_drop]
    omega
  rw [be32_ube32_of_length hlen]
  exact (List.take_append_drop _ pay).symm

theorem check_short (short : ShortKind) {pay : List Byte} (h : pay.length < Config.cksumLen) :
    check short pay = .error ⟨ErrorKind.ofShort short, .shortPayload⟩ := if_pos h

/-- R80, the comparison. -/
theorem check_long (short : ShortKind) {pay : List Byte} (h : Config.cksumLen ≤ pay.length) :
    check short pay = if crc32 (messageBytes pay) = ube32 (checksumField pay) then .ok (messageBytes pay)
      else .error ⟨.integrity, .crcMismatch⟩ := by
  conv_lhs => rw [eq_append_be32 h]
  exact check_append_be32 short _ _

/-- R49: what passes is `E` and its checksum. -/
theorem check_eq_ok_iff {short : ShortKind} {pay e : List Byte} : check short pay = .ok e ↔ pay = payloadOf e := by
  constructor
  · intro h
    rcases Nat.lt_or_ge pay.length Config.cksumLen with hlen | hlen
    · simp [check_short short hlen] at h
    · rw [check_long short hlen] at h
      split_ifs at h with hcrc
      rw [eq_append_be32 hlen, ← hcrc, Except.ok.inj h, payloadOf]
  · rintro rfl
    rw [payloadOf, check_append_be32, if_pos rfl]

/-- R38, R80: what `CHECK` raises. -/
theorem check_eq_mismatch_iff {short : ShortKind} {pay : List Byte} :
    check short pay = .error ⟨.integrity, .crcMismatch⟩ ↔
      Config.cksumLen ≤ pay.length ∧ crc32 (messageBytes pay) ≠ ube32 (checksumField pay) := by
  rcases Nat.lt_or_ge pay.length Config.cksumLen with hlen | hlen
  · simp [check_short short hlen, hlen]
  · rw [check_long short hlen]
    split_ifs with hcrc <;> simp [hlen, hcrc]

/-! ### The pipeline and the written frame -/

theorem pipeline_of_destuff_ok (short : ShortKind) {b pay : List Byte} (h : destuff b = .ok pay) :
    pipeline short b = check short pay := by rw [pipeline_eq, h]; rfl

theorem pipeline_of_destuff_error (short : ShortKind) {b : List Byte} {r : Raise} (h : destuff b = .error r) :
    pipeline short b = .error r := by rw [pipeline_eq, h]; rfl

/-- R98 (a): what lies between the sentinels of a written frame passes. -/
theorem pipeline_stuff_payloadOf (short : ShortKind) (e : List Byte) :
    pipeline short (stuff (payloadOf e)) = .ok e := by
  rw [pipeline_of_destuff_ok short ((decodes_stuff _).destuff (stuff_ne_nil _)), check_eq_ok_iff.2 rfl]

/-- R106: a mismatch is raised by `CHECK` alone, which `DESTUFF` lets have its say only when it returns. -/
theorem pipeline_eq_mismatch_iff {short : ShortKind} {b : List Byte} :
    pipeline short b = .error ⟨.integrity, .crcMismatch⟩ ↔
      ∃ pay, destuff b = .ok pay ∧ Config.cksumLen ≤ pay.length ∧
        crc32 (messageBytes pay) ≠ ube32 (checksumField pay) := by
  cases hd : destuff b with
  | ok pay => simp [pipeline_of_destuff_ok short hd, check_eq_mismatch_iff]
  | error r =>
    have hkind := destuff_error_kind hd
    simp only [pipeline_of_destuff_error short hd, Except.error.injEq, reduceCtorEq, false_and, exists_false, iff_false]
    rintro rfl
    cases hkind

theorem payloadOf_length (e : List Byte) : (payloadOf e).length = e.length + 4 := by
  rw [payloadOf, List.length_append, be32_length]
  rfl

end Machine

open Machine

/-- Settles O31: the two parts of the register, the byte that goes through the table and the rest, are shifted apart. -/
theorem crcTableDrivenFormAgrees : Obligations.CrcTableDrivenFormAgrees := crcByte_eq_table

/-- Settles O32: the two final inversions cancel, and so do the two initial values. -/
theorem crcIsLinear : Obligations.CrcIsLinear := by
  intro a a' hlen
  rw [crc32, crc32, xor_xor_xor_cancel, crcRegister, crcRegister, crcFold_xor hlen, BitVec.xor_self, crc32Raw]
  rfl

/-- Settles O33: each bit of the value lies in exactly one of the four bytes. -/
theorem checksumBytesRoundTrip : Obligations.ChecksumBytesRoundTrip :=
  ⟨ube32_be32, fun t0 t1 t2 t3 => ⟨be32_ube32 t0 t1 t2 t3, ube32_eq_or t0 t1 t2 t3⟩⟩

/-- Settles O36: the checksum field of what passes is the checksum of the bytes before it. -/
theorem checkAcceptsExactlyTheChecksummed : Obligations.CheckAcceptsExactlyTheChecksummed :=
  fun _ _ _ => check_eq_ok_iff

/-- Settles O41: the pipeline gives back the encoding, and the codec takes it back by hypothesis. -/
theorem readUndoesWrite : Obligations.ReadUndoesWrite := by
  intro c m short hc
  have hp := pipeline_stuff_payloadOf short (c.encode m)
  rw [payloadOf] at hp
  rw [readResult, hp, readOutcome, hc]

/-- Settles O44: the stuffed payload holds no zero byte and has the length of R69. -/
theorem writtenFrameShape : Obligations.WrittenFrameShape := by
  intro e
  have hlen := stuff_length_bounds (payloadOf e)
  refine ⟨stuff (payloadOf e), rfl, (decodes_stuff _).zero_free, stuff_ne_nil _, ?_⟩
  simp only [payloadOf_length, Config.maxRun] at hlen
  simp only [writeE, List.length_append, List.length_singleton]
  omega

end Sys2Proof

/-! The two byte-level decodings (R52, R53) against the encoder: what a byte decodes to is selected there and has that
byte for its encoding, and the encoding of what is selected decodes to it. -/

namespace Sys2Proof

/-- R53, the table's conditions in its order. -/
theorem decodeCode_eq (room : Nat) (c : Byte) :
    decodeCode room c = if c = 0x00 then .cobsZero else if room < c.toNat then .cobsOverrun c
      else if c = Config.codeFull then .cobsFull else .cobsRun c := by
  rw [decodeCode, classifyCode]
  split_ifs <;> rfl

theorem decodeRx_selected (empty full : Bool) (b : Byte) :
    encode (decodeRx empty full b) = [b] ∧ (decodeRx empty full b).wf = true ∧
      (decodeRx empty full b).selectedBy (.rx empty full) = true := by
  by_cases hb : b = Config.sentinel
  · cases empty <;> simp [decodeRx, hb, encode, Instr.wf, Instr.selectedBy, Config.sentinel]
  · cases full <;> simp [decodeRx, hb, encode, Instr.wf, Instr.selectedBy]

theorem decodeCode_selected (room : Nat) (c : Byte) :
    encode (decodeCode room c) = [c] ∧ (decodeCode room c).wf = true ∧
      (decodeCode room c).selectedBy (.code room) = true := by
  rw [decodeCode_eq]
  split_ifs with hzero hover hfull
  · exact ⟨by rw [hzero]; rfl, rfl, rfl⟩
  · exact ⟨rfl, by simpa [Instr.wf] using hzero, by simpa [Instr.selectedBy] using hover⟩
  · exact ⟨by rw [hfull]; rfl, rfl, by simpa [Instr.selectedBy, hfull, Config.codeFull] using hover⟩
  · exact ⟨rfl, by simpa [Instr.wf] using ⟨hzero, hfull⟩, by simpa [Instr.selectedBy] using hover⟩

/-- R52. -/
theorem decodeRx_of_selected {i : Instr} {empty full : Bool} {b : Byte} (hwf : i.wf = true)
    (hsel : i.selectedBy (.rx empty full) = true) (hb : encode i = [b]) : decodeRx empty full b = i := by
  cases i with
  | rxIdle | rxEnd =>
    obtain rfl : 0x00 = b := List.head_eq_of_cons_eq hb
    simp_all [decodeRx, Instr.selectedBy, Config.sentinel]
  | rxAccum x | rxOvf x =>
    obtain rfl : x = b := List.head_eq_of_cons_eq hb
    simp_all [decodeRx, Instr.selectedBy, Instr.wf]
  | _ => cases hsel

/-- R53. -/
theorem decodeCode_of_selected {i : Instr} {room : Nat} {c : Byte} (hwf : i.wf = true)
    (hsel : i.selectedBy (.code room) = true) (hc : encode i = [c]) : decodeCode room c = i := by
  rw [decodeCode_eq]
  cases i with
  | cobsZero =>
    obtain rfl : 0x00 = c := List.head_eq_of_cons_eq hc
    rfl
  | cobsFull =>
    obtain rfl : 0xFF = c := List.head_eq_of_cons_eq hc
    have hroom : 255 ≤ room := of_decide_eq_true hsel
    simp [Config.codeFull, hroom]
  | cobsRun x =>
    obtain rfl : x = c := List.head_eq_of_cons_eq hc
    obtain ⟨hzero, hfull⟩ : x ≠ 0x00 ∧ x ≠ Config.codeFull := by simpa [Instr.wf] using hwf
    have hroom : x.toNat ≤ room := of_decide_eq_true hsel
    rw [if_neg hzero, if_neg (not_lt.2 hroom), if_neg hfull]
  | cobsOverrun x =>
    obtain rfl : x = c := List.head_eq_of_cons_eq hc
    have hzero : x ≠ 0x00 := by simpa [Instr.wf] using hwf
    rw [if_neg hzero, if_pos (of_decide_eq_true hsel)]
  | _ => cases hsel

/-- R54: the operation of a byte in a place. -/
theorem exists_decode_selected (slot : Slot) (b : Byte) (rest : List Byte) :
    ∃ i, decode slot (b :: rest) = .ok (i, rest) ∧ encode i = [b] ∧ i.wf = true ∧ i.selectedBy slot = true := by
  cases slot with
  | rx empty full => exact ⟨_, rfl, decodeRx_selected empty full b⟩
  | code room => exact ⟨_, rfl, decodeCode_selected room b⟩

theorem decode_of_selected {slot : Slot} {i : Instr} {b : Byte} (rest : List Byte) (hwf : i.wf = true)
    (hsel : i.selectedBy slot = true) (hb : encode i = [b]) : decode slot (b :: rest) = .ok (i, rest) := by
  cases slot with
  | rx empty full => rw [decode, decodeRx_of_selected hwf hsel hb]
  | code room => rw [decode, decodeCode_of_selected hwf hsel hb]

/-- What some place selects has exactly one byte. -/
theorem exists_encode_of_selected {slot : Slot} {i : Instr} (hsel : i.selectedBy slot = true) : ∃ b, encode i = [b] := by
  cases i with
  | rxIdle | rxEnd | rxAccum | rxOvf | cobsZero | cobsRun | cobsFull | cobsOverrun => exact ⟨_, rfl⟩
  | _ => cases hsel

/-- Settles O1: what a place selects has one byte, and that byte decodes to it. -/
theorem encodedOperationDecodesBack : Obligations.EncodedOperationDecodesBack := by
  intro slot i rest hwf hsel
  obtain ⟨b, hb⟩ := exists_encode_of_selected hsel
  rw [hb]
  exact decode_of_selected rest hwf hsel hb

/-- Settles O2: two operations of one byte in one place are both what the byte decodes to there. -/
theorem everyByteSelectsExactlyOneOperation : Obligations.EveryByteSelectsExactlyOneOperation := by
  intro slot b rest
  obtain ⟨i, hdec, henc, hwf, hsel⟩ := exists_decode_selected slot b rest
  refine ⟨i, hdec, henc, hwf, hsel, fun j hjwf hjsel hjenc => ?_⟩
  have hj := decode_of_selected rest hjwf hjsel hjenc
  rw [hdec] at hj
  exact (Prod.mk.inj (Except.ok.inj hj)).1.symm

/-- Settles O3: nine bytes, evaluated. -/
theorem specWordsDecodeAsListed : Obligations.SpecWordsDecodeAsListed :=
  ⟨rfl, rfl, rfl, rfl, rfl, rfl, rfl, rfl, rfl⟩

end Sys2Proof

/-! The function-level operations (R6, R56): what each gives back, and that it leaves the block alone. -/

namespace Sys2Proof
namespace Machine

/-- The value a function-level operation gives back, from its operands and `SHORT_KIND`. -/
def Fn.result (short : ShortKind) : Fn → Ret
  | .destuff b => Ret.ofBytes (Machine.destuff b)
  | .stuff b => .bytes (Machine.stuff b)
  | .crc32 b => .word (Machine.crc32 b)
  | .crc32Byte crc x => .word (crcByte crc x)
  | .verify b x => .flag (Machine.verify b x)
  | .check pay => Ret.ofBytes (Machine.check short pay)
  | .pipeline b => .event (outcomeEvent (Machine.pipeline short b))
  | .read b => readResult Config.codec short b
  | .writeE e => .bytes (Machine.writeE e)
  | .write m => .bytes (writeMessage Config.codec m)

/-- What a function-level operation does to the working registers: `STUFF` uses none, `CRC32.BYTE` leaves its result in
`crc`, and every other one releases them (log entries 5, 7 and 19). -/
def State.afterWork (s : State) : Fn → State
  | .stuff _ => s
  | .crc32Byte crc x => s.setWork { s.work with crc := crcByte crc x }
  | _ => s.release

/-- The state after a call. -/
def State.called (s : State) (f : Fn) : State := (s.afterWork f).giveBack (f.result s.params.shortKind)

theorem exec_call (s : State) (f : Fn) : exec f.toInstr s = .next (s.called f) := by
  cases f <;> rfl

theorem State.sameBlock_called (s : State) (f : Fn) : s.sameBlock (s.called f) := by
  have h : s.sameBlock (s.afterWork f) := by
    cases f <;> exact ⟨rfl, rfl, rfl, rfl, rfl, rfl⟩
  exact h

theorem State.giveBack_release (s : State) (r : Ret) : s.release.giveBack r = s.afterCall (Work.free s.freeCount) r := rfl

/-- R31: an operation that releases the working registers, as `State.afterCall` says it. -/
theorem exec_releasing (s : State) {f : Fn} (h : s.afterWork f = s.release) :
    exec f.toInstr s = .next (s.afterCall (Work.free s.freeCount) (f.result s.params.shortKind)) := by
  rw [exec_call, State.called, h, State.giveBack_release]

/-- R73: the eight passes as an iterate of one. -/
theorem crcShifts_eq_iterate (n : Nat) (crc : Word32) : crcShifts n crc = crcShift^[n] crc := by
  induction n generalizing crc with
  | zero => rfl
  | succ n ih => rw [crcShifts, ih, Function.iterate_succ_apply]

end Machine

open Machine

/-- Settles O19: a call of `DESTUFF` gives back its result, and what it raises is a framing error. -/
theorem destuffGivesBackPayloadOrRaise : Obligations.DestuffGivesBackPayloadOrRaise := by
  refine ⟨fun s b => ⟨Work.free s.freeCount, fun pay h => ?_, fun r h => ⟨destuff_error_kind h, ?_⟩⟩, rfl, rfl⟩
  all_goals
    have hexec := exec_releasing s (f := .destuff b) rfl
    rwa [Fn.result, h, Ret.ofBytes] at hexec

/-- Settles O28: `STUFF` has no working register. -/
theorem stuffGivesBackStuffedBytes : Obligations.StuffGivesBackStuffedBytes :=
  ⟨fun s b => exec_call s (.stuff b), stuff_nil, rfl⟩

/-- Settles O29: the register's fold is the checksum's definition. -/
theorem crc32GivesBackTheChecksum : Obligations.Crc32GivesBackTheChecksum :=
  fun s b => ⟨_, exec_releasing s (f := .crc32 b) rfl⟩

/-- Settles O30: the eight passes are the iterate of one. -/
theorem crc32ByteFoldsOneByte : Obligations.Crc32ByteFoldsOneByte := by
  rintro s crc x v rfl
  have hv := crcShifts_eq_iterate 8 (crc ^^^ x.setWidth 32)
  have hexec := exec_call s (.crc32Byte crc x)
  rw [State.called, State.afterWork, Fn.result, crcByte, hv] at hexec
  exact hexec

/-- Settles O34: `VERIFY` gives back the comparison. -/
theorem verifyComparesTheChecksum : Obligations.VerifyComparesTheChecksum :=
  fun s b x => ⟨_, exec_releasing s (f := .verify b x) rfl⟩

/-- Settles O35: the length test is first, then the comparison decides. -/
theorem checkSplitsThenVerifies : Obligations.CheckSplitsThenVerifies := by
  intro s pay
  have hexec := exec_releasing s (f := .check pay) rfl
  rw [Fn.result] at hexec
  refine ⟨Work.free s.freeCount, fun hshort => ?_, fun hlong hcrc => ?_, fun hlong hcrc => ?_⟩
  · rw [check_short _ hshort] at hexec
    exact hexec
  · rw [check_long _ hlong, if_pos (c := crc32 (messageBytes pay) = ube32 (checksumField pay)) hcrc] at hexec
    exact hexec
  · rw [check_long _ hlong, if_neg (c := crc32 (messageBytes pay) = ube32 (checksumField pay)) hcrc] at hexec
    exact hexec

/-- Settles O38: the outcome is the first raise's event, or the message. -/
theorem pipelineDestuffsThenChecks : Obligations.PipelineDestuffsThenChecks := by
  intro s b
  have hexec := exec_releasing s (f := .pipeline b) rfl
  rw [Fn.result] at hexec
  refine ⟨Work.free s.freeCount, fun r hd => ?_, fun pay e hd hc => ?_, fun pay r hd hc => ?_⟩
  · rwa [pipeline_of_destuff_error _ hd, outcomeEvent] at hexec
  · rwa [pipeline_of_destuff_ok _ hd, hc, outcomeEvent] at hexec
  · rwa [pipeline_of_destuff_ok _ hd, hc, outcomeEvent] at hexec

/-- Settles O40: the codec is asked when the pipeline returns. -/
theorem readGivesBackTheDecodedMessage : Obligations.ReadGivesBackTheDecodedMessage := by
  intro s b
  have hexec := exec_releasing s (f := .read b) rfl
  rw [Fn.result, readResult] at hexec
  refine ⟨Work.free s.freeCount, fun e h => ?_, fun r h => ?_⟩
  · rw [h, readOutcome] at hexec
    exact hexec
  · rwa [h, readOutcome] at hexec

/-- Settles O42: the frame is the stuffed payload between two sentinels. -/
theorem writeEGivesBackTheFrame : Obligations.WriteEGivesBackTheFrame :=
  fun s e => ⟨_, exec_releasing s (f := .writeE e) rfl⟩

/-- Settles O43: `WRITE` is `WRITE_E` of the encoding. -/
theorem writeIsWriteEOfTheEncoding : Obligations.WriteIsWriteEOfTheEncoding :=
  fun s m => ⟨_, exec_releasing s (f := .write m) rfl⟩

/-- Settles O58: a call answers a state in which the working registers and the value given back may differ, and no more. -/
theorem functionsLeaveTheBlockAlone : Obligations.FunctionsLeaveTheBlockAlone :=
  fun s f => ⟨s.called f, _, exec_call s f, rfl, s.sameBlock_called f⟩

end Sys2Proof

/-! The COBS operations as steps of their own (R53, R58 to R63), and `DESTUFF` walked block by block (log entry 7). -/

namespace Sys2Proof
namespace Machine

/-! ### The end of a block -/

section
variable (s : State) (w : Work)

theorem State.endBlock_goesOn : s.endBlock (w, .goesOn) = s.setWork w := rfl

theorem State.endBlock_returns : s.endBlock (w, .returns) = s.afterCall (Work.free s.freeCount) (.bytes w.pay) := rfl

theorem State.endBlock_raises (c : Cause) :
    s.endBlock (w, .raises c) = s.afterCall (Work.free s.freeCount) (.raised ⟨.framing, c⟩) := rfl

theorem State.sameBlock_endBlock (r : Work × WalkEnd) : s.sameBlock (s.endBlock r) := by
  obtain ⟨w, _ | _ | _⟩ := r <;> exact ⟨rfl, rfl, rfl, rfl, rfl, rfl⟩

end

/-! ### The operations under their conditions -/

section
variable {s : State} {c : Byte}

theorem Work.fits_iff {w : Work} : w.fits c = true ↔ w.i + c.toNat ≤ w.src.length := decide_eq_true_iff

theorem exec_cobsZero (s : State) : exec .cobsZero s = .next (s.endBlock s.work.blockZero) := rfl

theorem exec_cobsRun_of_fits (hzero : c ≠ 0x00) (hfull : c ≠ Config.codeFull)
    (hfits : s.work.i + c.toNat ≤ s.work.src.length) :
    exec (.cobsRun c) s = .next (s.endBlock (s.work.blockRun c)) :=
  whenSelected_next.2 ⟨by simpa [hfull, Work.fits_iff.2 hfits] using hzero, rfl⟩

theorem exec_cobsFull_of_fits (hfits : s.work.i + 255 ≤ s.work.src.length) :
    exec .cobsFull s = .next (s.endBlock s.work.blockFull) :=
  whenSelected_next.2 ⟨Work.fits_iff.2 hfits, rfl⟩

theorem exec_cobsOverrun_of_not_fits (hzero : c ≠ 0x00) (hover : s.work.src.length < s.work.i + c.toNat) :
    exec (.cobsOverrun c) s = .next (s.endBlock (s.work.blockOverrun c)) :=
  whenSelected_next.2 ⟨by simpa [Work.fits, hover] using hzero, rfl⟩

/-- R53: the operation a code byte selects where it stands has the effect of one pass. -/
theorem exec_decodeCode (hi : s.work.i ≤ s.work.src.length) :
    exec (decodeCode (s.work.src.length - s.work.i) c) s = .next (s.endBlock (s.work.block c)) := by
  rw [decodeCode_eq, Work.block, classifyCode]
  split_ifs with hzero hover hfull
  · exact exec_cobsZero s
  · exact exec_cobsOverrun_of_not_fits hzero (by omega)
  · subst hfull
    exact exec_cobsFull_of_fits (by rw [Config.codeFull] at hover; simp at hover; omega)
  · exact exec_cobsRun_of_fits hzero hfull (by omega)

end

/-! ### One step of a walk -/

/-- What a step does when it is asked for the next block. -/
def State.walkStep (s : State) : State :=
  if s.walking then
    match s.work.src[s.work.i]? with
    | some c => s.endBlock (s.work.block c)
    | none => s
  else s

theorem State.walkStep_of_getElem? {s : State} {c : Byte} (hw : s.walking = true) (hc : s.work.src[s.work.i]? = some c) :
    s.walkStep = s.endBlock (s.work.block c) := by
  simp only [State.walkStep, hw, if_true, hc]

theorem State.sameBlock_walkStep (s : State) : s.sameBlock s.walkStep := by
  unfold State.walkStep
  split
  · split
    · exact s.sameBlock_endBlock _
    · exact ⟨rfl, rfl, rfl, rfl, rfl, rfl⟩
  · exact ⟨rfl, rfl, rfl, rfl, rfl, rfl⟩

theorem step_walkBlock {s : State} {rest : List Action} (h : s.pending = .walkBlock :: rest) :
    step s = .next (s.consume rest).walkStep := by
  cases hw : s.walking with
  | false =>
    rw [step_host h (by simp [State.instrOf, hw]), State.walkStep, State.consume_walking, hw]
    rfl
  | true =>
    cases hc : s.work.src[s.work.i]? with
    | none =>
      have hdrop : s.work.src.drop s.work.i = [] := List.drop_eq_nil_of_le (List.getElem?_eq_none_iff.1 hc)
      rw [step_host h (by simp [State.instrOf, hw, hdrop, decodeOne, decode]), State.walkStep]
      simp only [State.consume_walking, State.consume_work, hw, hc, if_true]
      rfl
    | some c =>
      obtain ⟨hlt, hget⟩ := List.getElem?_eq_some_iff.1 hc
      have hdrop := List.drop_eq_getElem_cons hlt
      have hinstr : (s.consume rest).instrOf .walkBlock = some (decodeCode (s.work.src.length - s.work.i) c) := by
        simp [State.instrOf, hw, hdrop, hget, decodeOne, decode, Work.codeSlot]
      have hstep : (s.consume rest).walkStep = (s.consume rest).endBlock (s.work.block c) :=
        State.walkStep_of_getElem? hw hc
      rw [step_runs h hinstr, hstep]
      exact exec_decodeCode (s := s.consume rest) hlt.le

/-! ### The whole walk -/

/-- What a `DESTUFF` whose walk has ended gives back. -/
def walkRet : Work × WalkEnd → Ret
  | (_, .raises c) => .raised ⟨.framing, c⟩
  | (w, _) => .bytes w.pay

theorem walkRet_walk_load {b : List Byte} (hb : b ≠ []) (w : Work) :
    walkRet (Work.walk b.length (w.load b)) = Ret.ofBytes (destuff b) := by
  rw [destuff_from b w, if_neg (by simpa using hb)]
  rcases Work.walk b.length (w.load b) with ⟨w', _ | _ | _⟩ <;> rfl

/-- R63: a pass after which the walk goes on has moved forward, within the same input. -/
theorem Work.block_goesOn {w w1 : Work} {c : Byte} (hc : w.src[w.i]? = some c) (hb : w.block c = (w1, .goesOn)) :
    w1.src = w.src ∧ w.i < w1.i ∧ w1.i < w.src.length := by
  obtain ⟨hlt, hget⟩ := List.getElem?_eq_some_iff.1 hc
  have hdrop : w.src.drop w.i = c :: w.src.drop (w.i + 1) := hget ▸ List.drop_eq_getElem_cons hlt
  rcases Work.block_cases hdrop with ⟨cause, hraise, -⟩ | ⟨g, rest, hz, hlen, hblock⟩
  · simp [hb] at hraise
  · rw [hblock] at hdrop
    obtain ⟨hcode, -, hsrc⟩ := Work.src_of_block hdrop
    obtain rfl : blockCode g = c := Option.some.inj (hcode.symm.trans hc)
    obtain ⟨k', hb'⟩ := Work.block_of_block hz hlen hdrop
    obtain ⟨hw1, hend⟩ := Prod.mk.inj (hb.symm.trans hb')
    have hr : 0 < rest.length := List.length_pos_iff.2 fun hr => by simp [hr] at hend
    subst hw1
    exact ⟨rfl, by simp only; omega, by simp only; omega⟩

theorem run_succ {s t : State} (k : Nat) (h : step s = .next t) :
    Host.Core.run core (k + 1) s = Host.Core.run core k t := by
  have hcore : core.step s = .next t := h
  simp only [Host.Core.run, hcore]

/-- Log entry 7: from any index with input left, the blocks asked for one by one give back what the rest of the walk
does. -/
theorem run_walkBlocks (fuel : Nat) {s : State} (hw : s.walking = true) (hi : s.work.i < s.work.src.length)
    (hfuel : s.work.src.length - s.work.i ≤ fuel) (rest : List Action) :
    ∃ (k : Nat) (t : State), 1 ≤ k ∧ k ≤ s.work.src.length - s.work.i ∧
      Host.Core.run core k { s with pending := List.replicate k .walkBlock ++ rest } = .next t ∧
      t.walking = false ∧ t.ret = some (walkRet (Work.walk fuel s.work)) ∧ (s.consume rest).sameBlock t := by
  induction fuel generalizing s with
  | zero => omega
  | succ n ih =>
    obtain ⟨c, hc⟩ : ∃ c, s.work.src[s.work.i]? = some c := ⟨_, List.getElem?_eq_getElem hi⟩
    have hstep : ∀ acts, step (s.consume (.walkBlock :: acts)) = .next ((s.consume acts).endBlock (s.work.block c)) := by
      intro acts
      have hblock : (s.consume acts).walkStep = (s.consume acts).endBlock (s.work.block c) :=
        State.walkStep_of_getElem? hw hc
      rw [← hblock]
      exact step_walkBlock rfl
    rcases hb : s.work.block c with ⟨w1, _ | _ | cause⟩
    case goesOn =>
      obtain ⟨hsrc, hlt, hend⟩ := Work.block_goesOn hc hb
      have hlen : w1.src.length = s.work.src.length := by rw [hsrc]
      obtain ⟨k, t, hk, hkn, hrun, hwalk, hret, hsame⟩ :=
        ih (s := s.setWork w1) hw (by rwa [← hlen] at hend) (by simp only [State.setWork_work]; omega)
      refine ⟨k + 1, t, by omega, ?_, ?_, hwalk, ?_, hsame⟩
      · simp only [State.setWork_work] at hkn
        omega
      · have h := hstep (List.replicate k .walkBlock ++ rest)
        rw [hb, State.endBlock_goesOn] at h
        exact (run_succ k h).trans hrun
      · simpa only [Work.walk, hc, hb, State.setWork_work] using hret
    all_goals
      have h := hstep rest
      rw [hb] at h
      refine ⟨1, _, Nat.le_refl 1, by omega, run_succ 0 h, rfl, ?_, State.sameBlock_endBlock _ _⟩
      simp only [Work.walk, hc, hb]
      rfl

theorem step_beginWalk {s : State} {b : List Byte} {rest : List Action} (hb : b ≠ [])
    (h : s.pending = .beginWalk b :: rest) :
    step s = .next { (s.consume rest).setWork (s.work.load b) with walking := true } := by
  rw [step_host h rfl, State.hostAct, if_neg (by simpa using hb)]
  rfl

end Machine

open Machine

/-- Settles O14: copying, advancing and the implied zero, before the end of the input and at it. -/
theorem runCopiesItsDataAndImpliesAZero : Obligations.RunCopiesItsDataAndImpliesAZero := by
  rintro s c d hzero hfull hfits rfl hz
  obtain ⟨k, hb⟩ := Work.blockRun_ok (w := s.work) (c := c) hz
  have hexec := exec_cobsRun_of_fits hzero hfull hfits
  refine ⟨k, Work.free s.freeCount, fun hlt => ?_, fun heq => ?_⟩
  · rw [hb, if_pos hlt, State.endBlock_goesOn] at hexec
    exact hexec
  · rw [hb, if_neg heq.not_lt, State.endBlock_returns] at hexec
    exact hexec

/-- Settles O15: copying and advancing; the data are as many as fit between two code bytes. -/
theorem fullBlockCopies254BytesAndNoZero : Obligations.FullBlockCopies254BytesAndNoZero := by
  rintro s d hfits rfl hz
  obtain ⟨k, hb⟩ := Work.blockFull_ok (w := s.work) hz
  have hexec := exec_cobsFull_of_fits hfits
  refine ⟨?_, k, Work.free s.freeCount, fun hlt => ?_, fun heq => ?_⟩
  · rw [List.length_take, List.length_drop]
    omega
  · rw [hb, if_pos hlt, State.endBlock_goesOn] at hexec
    exact hexec
  · rw [hb, if_neg heq.not_lt, State.endBlock_returns] at hexec
    exact hexec

/-- Settles O16: the block of a zero code raises at once. -/
theorem zeroCodeRaises : Obligations.ZeroCodeRaises := fun s => ⟨_, exec_cobsZero s⟩

/-- Settles O17: a block that does not fit raises at once. -/
theorem overrunRaises : Obligations.OverrunRaises :=
  fun _ _ hzero hover => ⟨_, exec_cobsOverrun_of_not_fits hzero hover⟩

/-- Settles O18: the zero stops the copying, in either block. -/
theorem zeroDataRaises : Obligations.ZeroDataRaises := by
  refine ⟨fun s c hzero hfull hfits hz => ⟨Work.free s.freeCount, ?_⟩, fun s hfits hz => ⟨Work.free s.freeCount, ?_⟩⟩
  · obtain ⟨_, _, hb⟩ := Work.block_zero_data (w := s.work) (c := c) hz
    rw [exec_cobsRun_of_fits hzero hfull hfits, hb, State.endBlock_raises]
  · obtain ⟨_, _, hb⟩ := Work.blockFull_zero_data (w := s.work) hz
    rw [exec_cobsFull_of_fits hfits, hb, State.endBlock_raises]

/-- Settles O20: beginning loads the working registers, and the blocks asked for are the passes of the walk. -/
theorem destuffIsItsBlocksOneByOne : Obligations.DestuffIsItsBlocksOneByOne := by
  intro s b rest hb
  obtain ⟨k, t, hk, hkn, hrun, hwalk, hret, hsame⟩ :=
    run_walkBlocks b.length (s := { s.setWork (s.work.load b) with walking := true }) rfl (List.length_pos_iff.2 hb)
      (Nat.sub_le _ _) rest
  refine ⟨k, t, hk, hkn.trans (Nat.sub_le _ _), ?_, hwalk, ?_, hsame⟩
  · exact (run_succ k (step_beginWalk hb rfl)).trans hrun
  · rw [hret, ← walkRet_walk_load hb s.work]
    rfl

end Sys2Proof

/-! The frame delimiter's operations in every case (R86 to R97), and their refusals (log entry 9). -/

namespace Sys2Proof
namespace Machine

/-! ### Closing a frame -/

/-- R91 to R93: the one event of a frame's end. -/
def State.frameOutcome (s : State) : OutputEvent :=
  if s.ovf then .error .framing .overflow else outcomeEvent (pipeline s.params.shortKind s.buf)

theorem State.frameOutcome_overflow {s : State} (h : s.ovf = true) : s.frameOutcome = .error .framing .overflow := if_pos h

theorem State.frameOutcome_pipeline {s : State} (h : s.ovf = false) :
    s.frameOutcome = outcomeEvent (pipeline s.params.shortKind s.buf) := by
  rw [State.frameOutcome, h]
  rfl

/-- R90 to R93: the end of a frame emits its outcome and clears; only the working registers, which the pipeline uses, may
differ too. -/
theorem State.closeFrame_eq (s : State) :
    s.closeFrame = ((if s.ovf then s else s.release).emit s.frameOutcome).clear := by
  cases h : s.ovf with
  | true => rw [State.closeFrame_overflow h, State.frameOutcome_overflow h]; rfl
  | false => rw [State.closeFrame_outcome h, State.frameOutcome_pipeline h]; rfl

@[simp] theorem State.closeFrame_params (s : State) : s.closeFrame.params = s.params := by
  rw [State.closeFrame_eq]; split <;> rfl
@[simp] theorem State.closeFrame_fsm (s : State) : s.closeFrame.fsm = .idle := by rw [State.closeFrame_eq]; rfl
@[simp] theorem State.closeFrame_buf (s : State) : s.closeFrame.buf = [] := by rw [State.closeFrame_eq]; rfl
@[simp] theorem State.closeFrame_ovf (s : State) : s.closeFrame.ovf = false := by rw [State.closeFrame_eq]; rfl
@[simp] theorem State.closeFrame_output (s : State) : s.closeFrame.output = s.output ++ [s.frameOutcome] := by
  rw [State.closeFrame_eq]; split <;> rfl

theorem State.synced_closeFrame (s : State) : s.closeFrame.synced :=
  ⟨s.closeFrame_fsm, s.closeFrame_buf, s.closeFrame_ovf⟩

theorem State.closeFrame_consume (s : State) (rest : List Action) :
    (s.consume rest).closeFrame = s.closeFrame.consume rest := by
  rw [State.closeFrame_eq, State.closeFrame_eq, State.consume_ovf]
  split <;> rfl

theorem State.closeFrame_setWork (s : State) (w : Work) : ∃ w', (s.setWork w).closeFrame = s.closeFrame.setWork w' := by
  rw [State.closeFrame_eq, State.closeFrame_eq, State.setWork_ovf]
  split
  · exact ⟨w, rfl⟩
  · exact ⟨Work.free s.freeCount, rfl⟩

/-! ### The operations where they are selected -/

section
variable {s : State} (hrun : s.fsm ≠ .stopped)
include hrun

/-- R88, with the condition as the table writes it. -/
theorem exec_rxAccum_of_not_full {b : Byte} (hb : b ≠ Config.sentinel) (hfull : s.bufFull = false) :
    exec (.rxAccum b) s = .next { s.appendBuf b with fsm := .accumulating } :=
  exec_rxAccum_of_room hrun hb (s.not_bufFull_iff.1 hfull)

/-- R93. -/
theorem exec_rxOvf_of_full {b : Byte} (hb : b ≠ Config.sentinel) (hfull : s.bufFull = true) :
    exec (.rxOvf b) s = .next s.setOvf :=
  State.receive_of_selected hrun (by simp [hb, hfull]) _ _

/-- R95. -/
theorem exec_rxStop_of_running : exec .rxStop s = .next (s.halt .exited) := State.receive_selected hrun _ _

/-- R96. -/
theorem exec_rxLost_of_running : exec .rxLost s = .next (s.halt .transportLost) := State.receive_selected hrun _ _

/-- Log entry 9. -/
theorem State.receive_of_not_selected {sel : Bool} (hsel : sel = false) (name : String) (t : State) :
    s.receive sel name t = .refused (.notSelected name) := by
  rw [State.receive, if_neg hrun, hsel]
  rfl

end

theorem whenSelected_of_not_selected {sel : Bool} (hsel : sel = false) (name : String) (t : State) :
    whenSelected sel name t = .refused (.notSelected name) := by
  rw [hsel]
  rfl

theorem State.bufEmpty_eq_false_iff (s : State) : s.bufEmpty = false ↔ s.buf ≠ [] := by
  rw [← Bool.not_eq_true, State.bufEmpty_iff]

end Machine

open Machine

/-- Settles O7: closing a frame that did not overflow, with the pipeline's outcome as an event. -/
theorem endOfFrameEmitsTheOutcome : Obligations.EndOfFrameEmitsTheOutcome := by
  intro s hrun hlen hovf
  have hexec := exec_rxEnd_of_buf_ne_nil hrun (List.length_pos_iff.1 hlen)
  rw [State.closeFrame_outcome hovf] at hexec
  refine ⟨Work.free s.freeCount, outcomeEvent (pipeline s.params.shortKind s.buf), hexec, fun e he => ?_, fun r hr => ?_⟩
  · rw [he, outcomeEvent]
  · rw [hr, outcomeEvent]

/-- Settles O9: a full buffer selects `RX.OVF`, and an overflowed frame is closed without the pipeline. -/
theorem overflowDropsAndIsReported : Obligations.OverflowDropsAndIsReported := by
  refine ⟨fun s b hrun hb ⟨cap, hcap, hlen⟩ => ?_, fun s hrun hlen hovf => ?_⟩
  · exact exec_rxOvf_of_full hrun hb (s.bufFull_iff.2 ⟨cap, hcap, hlen.ge⟩)
  · rw [exec_rxEnd_of_buf_ne_nil hrun (List.length_pos_iff.1 hlen), State.closeFrame_overflow hovf]
    rfl

/-- Settles O11: both halt a running block, each with its event. -/
theorem stopAndLostHaltTheReader : Obligations.StopAndLostHaltTheReader :=
  fun _ hrun => ⟨exec_rxStop_of_running hrun, exec_rxLost_of_running hrun⟩

/-- Settles O13: in each case one conjunct of the table's condition is false. -/
theorem unselectedOperationIsRefused : Obligations.UnselectedOperationIsRefused := by
  refine ⟨fun s hrun hlen => ?_, fun s hrun hlen => ?_, fun s b hrun h => ?_, fun s b hrun h => ?_, fun s c h => ?_,
    fun s h => ?_, fun s c h => ?_⟩
  · exact State.receive_of_not_selected hrun (s.bufEmpty_eq_false_iff.2 (List.length_pos_iff.1 hlen)) _ _
  · have hempty := s.bufEmpty_iff.2 (List.length_eq_zero_iff.1 hlen)
    exact State.receive_of_not_selected hrun (by rw [hempty]; rfl) _ _
  · refine State.receive_of_not_selected hrun ?_ _ _
    rcases h with rfl | hfull
    · rfl
    · rw [s.bufFull_iff.2 hfull, Bool.not_true, Bool.and_false]
  · refine State.receive_of_not_selected hrun ?_ _ _
    rcases h with rfl | hroom
    · rfl
    · rw [s.not_bufFull_iff.2 hroom, Bool.and_false]
  · refine whenSelected_of_not_selected ?_ _ _
    rcases h with rfl | rfl | hover
    · rfl
    · rfl
    · rw [Work.fits, decide_eq_false (by omega), Bool.and_false]
  · exact whenSelected_of_not_selected (decide_eq_false (not_le.2 h)) _ _
  · refine whenSelected_of_not_selected ?_ _ _
    rcases h with rfl | hfits
    · rfl
    · rw [Work.fits_iff.2 hfits, Bool.not_true, Bool.and_false]

/-- Settles O39: the mismatch is raised by `CHECK` alone, and closing the frame emits it. -/
theorem integrityErrorExactlyOnMismatch : Obligations.IntegrityErrorExactlyOnMismatch := by
  refine ⟨fun short b => pipeline_eq_mismatch_iff, fun s hrun hlen hovf hraise => ⟨Work.free s.freeCount, ?_⟩⟩
  rw [exec_rxEnd_of_buf_ne_nil hrun (List.length_pos_iff.1 hlen), State.closeFrame_outcome hovf, hraise]
  obtain ⟨params, fsm, buf, ovf, work, freeCount, walking, pending, output, ret⟩ := s
  obtain rfl : ovf = false := hovf
  rfl

end Sys2Proof

/-! The step as a total function of the state and what is presented (R18, R43), and what it can do: an input event has one
of the effects of R86, the caller's reset has its own, and everything else leaves the receiver alone. -/

namespace Sys2Proof
namespace Machine

/-! ### The reaction to an input event -/

/-- R86: the state after an input event. -/
def State.react (s : State) (e : InputEvent) : State :=
  if s.fsm = .stopped then s else
  match e with
  | .byte b =>
    if b = Config.sentinel then (if s.buf = [] then s else s.closeFrame)
    else if s.bufFull then s.setOvf else { s.appendBuf b with fsm := .accumulating }
  | .timeout => s
  | .stop => s.halt .exited
  | .lost => s.halt .transportLost

/-- R86, the rows of the step table: `s.Reaction e t` where the event `e` takes the state `s` to `t`. -/
inductive State.Reaction (s : State) : InputEvent → State → Prop where
  | ignored (e : InputEvent) : s.fsm = .stopped → Reaction s e s
  | idleMarker : s.fsm ≠ .stopped → s.buf = [] → Reaction s (.byte 0x00) s
  | frameEnd : s.fsm ≠ .stopped → s.buf ≠ [] → Reaction s (.byte 0x00) s.closeFrame
  | drop (b : Byte) : s.fsm ≠ .stopped → b ≠ 0x00 → s.bufFull = true → Reaction s (.byte b) s.setOvf
  | store (b : Byte) : s.fsm ≠ .stopped → b ≠ 0x00 → s.bufFull = false →
      Reaction s (.byte b) { s.appendBuf b with fsm := .accumulating }
  | timeout : s.fsm ≠ .stopped → Reaction s .timeout s
  | stop : s.fsm ≠ .stopped → Reaction s .stop (s.halt .exited)
  | lost : s.fsm ≠ .stopped → Reaction s .lost (s.halt .transportLost)

/-- R86: every pair of state and event has its row. -/
theorem State.exists_reaction (s : State) (e : InputEvent) : ∃ t, s.Reaction e t := by
  by_cases hrun : s.fsm = .stopped
  · exact ⟨_, .ignored e hrun⟩
  cases e with
  | byte b =>
    by_cases hb : b = 0x00
    · subst hb
      by_cases hbuf : s.buf = []
      · exact ⟨_, .idleMarker hrun hbuf⟩
      · exact ⟨_, .frameEnd hrun hbuf⟩
    · cases hfull : s.bufFull with
      | true => exact ⟨_, .drop b hrun hb hfull⟩
      | false => exact ⟨_, .store b hrun hb hfull⟩
  | timeout => exact ⟨_, .timeout hrun⟩
  | stop => exact ⟨_, .stop hrun⟩
  | lost => exact ⟨_, .lost hrun⟩

/-- R86: and only one. -/
theorem State.Reaction.react_eq {s t : State} {e : InputEvent} (h : s.Reaction e t) : s.react e = t := by
  cases h with
  | ignored e hstop => exact if_pos hstop
  | idleMarker hrun hbuf => exact (if_neg hrun).trans ((if_pos rfl).trans (if_pos hbuf))
  | frameEnd hrun hbuf => exact (if_neg hrun).trans ((if_pos rfl).trans (if_neg hbuf))
  | drop b hrun hb hfull => exact (if_neg hrun).trans ((if_neg hb).trans (if_pos hfull))
  | store b hrun hb hfull => exact (if_neg hrun).trans ((if_neg hb).trans (if_neg (ne_true_of_eq_false hfull)))
  | timeout hrun | stop hrun | lost hrun => exact if_neg hrun

theorem State.reaction_react (s : State) (e : InputEvent) : s.Reaction e (s.react e) := by
  obtain ⟨t, h⟩ := s.exists_reaction e
  rwa [h.react_eq]

/-- R97: in `Stopped` the operation an event would select elsewhere changes nothing. -/
theorem exec_event_of_stopped {s : State} (hstop : s.fsm = .stopped) (e : InputEvent) :
    ∃ i, s.instrOf (.event e) = some i ∧ exec i s = .next s := by
  cases e with
  | byte b =>
    refine ⟨decodeRx s.bufEmpty s.bufFull b, s.instrOf_byte b, ?_⟩
    rw [decodeRx]
    split_ifs <;> exact State.receive_stopped hstop _ _ _
  | timeout | stop | lost => exact ⟨_, rfl, State.receive_stopped hstop _ _ _⟩

/-- R52, R86: the operation an event selects has the reaction for its effect. -/
theorem exec_event (s : State) (e : InputEvent) :
    ∃ i, s.instrOf (.event e) = some i ∧ exec i s = .next (s.react e) := by
  have h := s.reaction_react e
  generalize s.react e = t at h
  cases h with
  | ignored e hstop => exact exec_event_of_stopped hstop e
  | idleMarker hrun hbuf =>
    have hd : decodeRx s.bufEmpty s.bufFull 0x00 = .rxIdle := by rw [s.bufEmpty_iff.2 hbuf]; rfl
    exact ⟨_, s.instrOf_byte _, hd ▸ exec_rxIdle_of_buf_nil hrun hbuf⟩
  | frameEnd hrun hbuf =>
    have hd : decodeRx s.bufEmpty s.bufFull 0x00 = .rxEnd := by rw [s.bufEmpty_eq_false_iff.2 hbuf]; rfl
    exact ⟨_, s.instrOf_byte _, hd ▸ exec_rxEnd_of_buf_ne_nil hrun hbuf⟩
  | drop b hrun hb hfull =>
    have hd : decodeRx s.bufEmpty s.bufFull b = .rxOvf b := by rw [hfull]; exact if_neg hb
    exact ⟨_, s.instrOf_byte _, hd ▸ exec_rxOvf_of_full hrun hb hfull⟩
  | store b hrun hb hfull =>
    have hd : decodeRx s.bufEmpty s.bufFull b = .rxAccum b := by rw [hfull]; exact if_neg hb
    exact ⟨_, s.instrOf_byte _, hd ▸ exec_rxAccum_of_not_full hrun hb hfull⟩
  | timeout hrun => exact ⟨.rxTimeout, rfl, exec_rxTimeout_of_running hrun⟩
  | stop hrun => exact ⟨.rxStop, rfl, exec_rxStop_of_running hrun⟩
  | lost hrun => exact ⟨.rxLost, rfl, exec_rxLost_of_running hrun⟩

/-! ### The step -/

/-- The state after an action. -/
def State.act (s : State) : Action → State
  | .event e => s.react e
  | .reset => s.restart
  | .beginWalk b => s.hostAct (.beginWalk b)
  | .walkBlock => s.walkStep
  | .call f => s.called f

/-- R18, R43: the step takes what is presented next and acts on it to completion. -/
theorem step_act {s : State} {a : Action} {rest : List Action} (h : s.pending = a :: rest) :
    step s = .next ((s.consume rest).act a) := by
  cases a with
  | event e =>
    obtain ⟨i, hi, hexec⟩ := exec_event (s.consume rest) e
    rw [step_runs h hi, hexec, State.act]
  | reset | beginWalk => exact step_host h rfl
  | walkBlock => exact step_walkBlock h
  | call f => rw [step_runs h rfl, exec_call, State.act]

/-- What the delimiter holds and has emitted is the same. -/
def State.sameReceiver (s t : State) : Prop :=
  t.params = s.params ∧ t.fsm = s.fsm ∧ t.buf = s.buf ∧ t.ovf = s.ovf ∧ t.output = s.output

theorem State.sameReceiver_of_sameBlock {s t : State} {rest : List Action} (h : (s.consume rest).sameBlock t) :
    s.sameReceiver t := by
  obtain ⟨hparams, hfsm, hbuf, hovf, -, hout⟩ := h
  exact ⟨hparams, hfsm, hbuf, hovf, hout⟩

theorem State.sameBlock_beginWalk (s : State) (b : List Byte) : s.sameBlock (s.hostAct (.beginWalk b)) := by
  simp only [State.hostAct]
  split_ifs <;> exact ⟨rfl, rfl, rfl, rfl, rfl, rfl⟩

/-- Everything a step can do to the receiver: react to an event, restart, or nothing. -/
theorem step_effect {s t : State} (h : step s = .next t) :
    (∃ e rest, s.pending = .event e :: rest ∧ (s.consume rest).Reaction e t) ∨
      (∃ rest, s.pending = .reset :: rest ∧ t = (s.consume rest).restart) ∨
      ((∀ e, s.pending.head? ≠ some (.event e)) ∧ s.pending.head? ≠ some .reset ∧ s.sameReceiver t) := by
  rcases hp : s.pending with _ | ⟨a, rest⟩
  · rw [step_wait hp] at h
    obtain rfl : s = t := Host.Outcome.next.inj h
    exact .inr (.inr ⟨by simp, by simp, rfl, rfl, rfl, rfl, rfl⟩)
  · rw [step_act hp] at h
    obtain rfl := Host.Outcome.next.inj h
    cases a with
    | event e => exact .inl ⟨e, rest, rfl, (s.consume rest).reaction_react e⟩
    | reset => exact .inr (.inl ⟨rest, rfl, rfl⟩)
    | beginWalk b =>
      exact .inr (.inr ⟨by simp, by simp, State.sameReceiver_of_sameBlock ((s.consume rest).sameBlock_beginWalk b)⟩)
    | walkBlock =>
      exact .inr (.inr ⟨by simp, by simp, State.sameReceiver_of_sameBlock (s.consume rest).sameBlock_walkStep⟩)
    | call f =>
      exact .inr (.inr ⟨by simp, by simp, State.sameReceiver_of_sameBlock ((s.consume rest).sameBlock_called f)⟩)

/-! ### The working registers -/

theorem State.Reaction.setWork {s t : State} {e : InputEvent} (h : s.Reaction e t) (w : Work) :
    ∃ w', (s.setWork w).Reaction e (t.setWork w') := by
  cases h with
  | ignored e hstop => exact ⟨w, .ignored e hstop⟩
  | idleMarker hrun hbuf => exact ⟨w, .idleMarker hrun hbuf⟩
  | frameEnd hrun hbuf =>
    obtain ⟨w', hw⟩ := s.closeFrame_setWork w
    exact ⟨w', hw ▸ .frameEnd (s := s.setWork w) hrun hbuf⟩
  | drop b hrun hb hfull => exact ⟨w, .drop (s := s.setWork w) b hrun hb hfull⟩
  | store b hrun hb hfull => exact ⟨w, .store (s := s.setWork w) b hrun hb hfull⟩
  | timeout hrun => exact ⟨w, .timeout hrun⟩
  | stop hrun => exact ⟨w, .stop (s := s.setWork w) hrun⟩
  | lost hrun => exact ⟨w, .lost (s := s.setWork w) hrun⟩

theorem State.react_setWork (s : State) (w : Work) (e : InputEvent) :
    ∃ w', (s.setWork w).react e = (s.react e).setWork w' :=
  ((s.reaction_react e).setWork w).imp fun _ h => h.react_eq

theorem State.called_setWork (s : State) (w : Work) (f : Fn) : ∃ w', (s.setWork w).called f = (s.called f).setWork w' := by
  cases f with
  | stuff b => exact ⟨w, rfl⟩
  | crc32Byte crc x => exact ⟨{ w with crc := crcByte crc x }, rfl⟩
  | _ => exact ⟨Work.free s.freeCount, rfl⟩

theorem State.beginWalk_setWork (s : State) (w : Work) (b : List Byte) :
    ∃ w', (s.setWork w).hostAct (.beginWalk b) = (s.hostAct (.beginWalk b)).setWork w' := by
  simp only [State.hostAct]
  split_ifs
  · exact ⟨Work.free s.freeCount, rfl⟩
  · exact ⟨w.load b, rfl⟩

/-- R31, D11: no action but a block of a walk depends on what the working registers hold. -/
theorem State.act_setWork (s : State) (w : Work) {a : Action} (ha : a ≠ .walkBlock) :
    ∃ w', (s.setWork w).act a = (s.act a).setWork w' := by
  cases a with
  | event e => exact s.react_setWork w e
  | reset => exact ⟨Work.reset, rfl⟩
  | beginWalk b => exact s.beginWalk_setWork w b
  | walkBlock => exact absurd rfl ha
  | call f => exact s.called_setWork w f

/-! ### The invariant -/

/-- R37, R128: a block in step meets the invariant. -/
theorem State.inv_of_synced {s : State} (hwf : s.params.wf = true) (h : s.synced) : s.Inv := by
  obtain ⟨hfsm, hbuf, hovf⟩ := h
  simp [State.Inv, State.len, hwf, hfsm, hbuf, hovf]

theorem State.inv_of_sameReceiver {s t : State} (h : s.sameReceiver t) (hs : s.Inv) : t.Inv := by
  obtain ⟨hparams, hfsm, hbuf, hovf, -⟩ := h
  simpa only [State.Inv, State.len, State.bufFull, hparams, hfsm, hbuf, hovf] using hs

/-- R13: the last place is not before the first. -/
theorem State.one_le_cap {s : State} (hwf : s.params.wf = true) {cap : Nat} (hcap : cap ∈ s.params.bufCap) : 1 ≤ cap := by
  have hcap' : s.params.bufCap = some cap := hcap
  simpa [Params.wf, hcap'] using hwf

/-- R24 to R29: every row of the step table keeps the invariant. -/
theorem State.Reaction.inv {s t : State} {e : InputEvent} (h : s.Reaction e t) (hs : s.Inv) : t.Inv := by
  have hinv := hs
  obtain ⟨hwf, hz, hcap, hidle, hovf⟩ := hs
  cases h with
  | ignored | idleMarker | timeout => exact hinv
  | frameEnd => exact State.inv_of_synced (by rwa [State.closeFrame_params]) s.synced_closeFrame
  | drop b hrun hb hfull => exact ⟨hwf, hz, hcap, hidle, fun _ => hfull⟩
  | store b hrun hb hfull =>
    have hroom := s.not_bufFull_iff.1 hfull
    refine ⟨hwf, ?_, fun cap hc => ?_, fun _ => ?_, fun ho => ?_⟩
    · simpa using ⟨hz, fun h => hb h.symm⟩
    · simpa [State.len] using hroom cap hc
    · simp [State.len]
    · rw [hovf ho] at hfull
      cases hfull
  | stop | lost => exact ⟨hwf, hz, hcap, fun hrun => absurd rfl hrun, hovf⟩

theorem State.react_inv {s : State} (hs : s.Inv) (e : InputEvent) : (s.react e).Inv := (s.reaction_react e).inv hs

/-! ### The errors -/

/-- R105, R113: the causes of an `Error` that `PIPELINE` gives on the bytes of a frame. -/
theorem pipeline_zero_free_error {short : ShortKind} {b : List Byte} {r : Raise} (hb : b ≠ []) (hz : 0x00 ∉ b)
    (h : pipeline short b = .error r) :
    r = ⟨.framing, .overrun⟩ ∨ r = ⟨ErrorKind.ofShort short, .shortPayload⟩ ∨ r = ⟨.integrity, .crcMismatch⟩ := by
  cases hd : destuff b with
  | error r' =>
    rw [pipeline_of_destuff_error short hd] at h
    obtain rfl := Except.error.inj h
    exact .inl (destuff_zero_free_error hb hz hd)
  | ok pay =>
    rw [pipeline_of_destuff_ok short hd] at h
    rcases Nat.lt_or_ge pay.length Config.cksumLen with hlen | hlen
    · rw [check_short short hlen] at h
      exact .inr (.inl (Except.error.inj h).symm)
    · rw [check_long short hlen] at h
      split_ifs at h
      exact .inr (.inr (Except.error.inj h).symm)

/-- R105, R113: the errors of a frame's end, from a state that meets the invariant. -/
theorem State.frameOutcome_error {s : State} (hs : s.Inv) (hbuf : s.buf ≠ []) {k : ErrorKind} {c : Cause}
    (h : s.frameOutcome = .error k c) :
    (k = .framing ∧ c = .overflow ∧ s.bufFull = true) ∨ (k = .framing ∧ c = .overrun) ∨
      (k = ErrorKind.ofShort s.params.shortKind ∧ c = .shortPayload) ∨ (k = .integrity ∧ c = .crcMismatch) := by
  obtain ⟨-, hz, -, -, hfull⟩ := hs
  cases hovf : s.ovf with
  | true =>
    rw [State.frameOutcome_overflow hovf] at h
    obtain ⟨rfl, rfl⟩ := OutputEvent.error.inj h
    exact .inl ⟨rfl, rfl, hfull hovf⟩
  | false =>
    rw [State.frameOutcome_pipeline hovf] at h
    cases hp : pipeline s.params.shortKind s.buf with
    | ok e => simp [hp, outcomeEvent] at h
    | error r =>
      rw [hp] at h
      obtain ⟨rfl, rfl⟩ := OutputEvent.error.inj h
      rcases pipeline_zero_free_error hbuf hz hp with rfl | rfl | rfl
      · exact .inr (.inl ⟨rfl, rfl⟩)
      · exact .inr (.inr (.inl ⟨rfl, rfl⟩))
      · exact .inr (.inr (.inr ⟨rfl, rfl⟩))

end Machine

open Machine

/-- Settles O4: what is presented is consumed and selects the operation; with nothing presented the step waits. -/
theorem stepRunsTheSelectedOperation : Obligations.StepRunsTheSelectedOperation := by
  refine ⟨fun s b rest i hp hd => step_runs hp ?_, fun s rest hp => step_runs hp rfl, fun s rest hp => step_runs hp rfl,
    fun s rest hp => step_runs hp rfl, fun s rest i tail hp hw hd => step_runs hp ?_, fun s rest f hp => step_runs hp rfl,
    fun s hp => step_wait hp⟩
  · have hsel : decodeOne s.rxSlot [b] = some i := by rw [decodeOne, State.rxSlot, hd]
    exact hsel
  · have hsel : decodeOne s.work.codeSlot (s.work.src.drop s.work.i) = some i := by rw [decodeOne, Work.codeSlot, hd]
    rw [State.instrOf, State.consume_walking, State.consume_work, if_pos hw, hsel]

/-- Settles O12: in `Stopped` the reaction to every event is none. -/
theorem stoppedIgnoresEveryEvent : Obligations.StoppedIgnoresEveryEvent := by
  intro s e rest hstop hp
  rw [step_act hp, State.act, (State.Reaction.ignored (s := s.consume rest) e hstop).react_eq]
  rfl

/-- Settles O51: the caller's reset is the restart. -/
theorem callerResetFromEveryState : Obligations.CallerResetFromEveryState := fun _ _ hp => step_act hp

/-- Settles O52: every action has a state after it. -/
theorem everyStepAnswersANextState : Obligations.EveryStepAnswersANextState := by
  intro s
  rcases hp : s.pending with _ | ⟨a, rest⟩
  · exact ⟨s, step_wait hp⟩
  · exact ⟨_, step_act hp⟩

/-- Settles O53: of the rows of the step table only the end of a frame, `Stop` and `Lost` emit. -/
theorem eventsComeOnlyFromEndStopLost : Obligations.EventsComeOnlyFromEndStopLost := by
  intro s t h
  rcases step_effect h with ⟨e, rest, hp, hr⟩ | ⟨rest, hp, rfl⟩ | ⟨hevent, -, -, -, -, -, hout⟩
  · cases hr with
    | ignored e hstop => exact .inr ⟨fun hc => hc.1 hstop, rfl⟩
    | idleMarker hrun hbuf =>
      rw [State.consume_buf] at hbuf
      exact .inr ⟨by simp [hp, hbuf], rfl⟩
    | frameEnd hrun hbuf => exact .inl ⟨⟨hrun, .inl ⟨by rw [hp]; rfl, hbuf⟩⟩, _, State.closeFrame_output _⟩
    | drop b hrun hb hfull => exact .inr ⟨by simpa [hp] using fun _ h => absurd h hb, rfl⟩
    | store b hrun hb hfull => exact .inr ⟨by simpa [hp] using fun _ h => absurd h hb, rfl⟩
    | timeout => exact .inr ⟨by simp [hp], rfl⟩
    | stop hrun => exact .inl ⟨⟨hrun, .inr (.inl (by rw [hp]; rfl))⟩, .exited, rfl⟩
    | lost hrun => exact .inl ⟨⟨hrun, .inr (.inr (by rw [hp]; rfl))⟩, .transportLost, rfl⟩
  · exact .inr ⟨by simp [hp], rfl⟩
  · exact .inr ⟨by simp [hevent], hout⟩

/-- Settles O54: of the rows of the step table only `Stop` and `Lost` lead to `Stopped`, and none leaves it. -/
theorem onlyStopAndLostEndTheLoop : Obligations.OnlyStopAndLostEndTheLoop := by
  intro s t h
  rcases step_effect h with ⟨e, rest, hp, hr⟩ | ⟨rest, hp, rfl⟩ | ⟨hevent, hreset, -, hfsm, -⟩
  · cases hr with
    | ignored e hstop =>
      rw [State.consume_fsm] at hstop
      simp [hp, hstop]
    | idleMarker hrun | drop _ hrun | timeout hrun =>
      rw [State.consume_fsm] at hrun
      simp [hp, hrun]
    | frameEnd hrun | store _ hrun | stop hrun | lost hrun =>
      rw [State.consume_fsm] at hrun
      simp [hp, hrun]
  · simp [hp]
  · simp [hfsm, hevent, hreset]

/-- Settles O57: the action taken is not a block of a walk, and no other depends on the working registers. -/
theorem workingRegistersCarryNothing : Obligations.WorkingRegistersCarryNothing := by
  intro s t w hhead h
  rcases hp : s.pending with _ | ⟨a, rest⟩
  · rw [step_wait hp] at h
    obtain rfl : s = t := Host.Outcome.next.inj h
    exact ⟨w, step_wait hp⟩
  · rw [step_act hp] at h
    obtain rfl := Host.Outcome.next.inj h
    have ha : a ≠ .walkBlock := by
      rintro rfl
      exact hhead (by rw [hp]; rfl)
    obtain ⟨w', hact⟩ := (s.consume rest).act_setWork w ha
    exact ⟨w', hact ▸ step_act (s := s.setWork w) hp⟩

/-- Settles O48: the rows of the step table keep the invariant, reset meets it, and nothing else touches the receiver. -/
theorem invariantKeptByEveryStep : Obligations.InvariantKeptByEveryStep := by
  intro s t hs h
  rcases step_effect h with ⟨e, rest, -, hr⟩ | ⟨rest, -, rfl⟩ | ⟨-, -, hsame⟩
  · exact hr.inv hs
  · exact State.inv_of_synced hs.1 ⟨rfl, rfl, rfl⟩
  · exact State.inv_of_sameReceiver hsame hs

/-- Settles O49: the reset state is in step. -/
theorem resetMeetsTheInvariant : Obligations.ResetMeetsTheInvariant :=
  ⟨State.inv_of_synced rfl ⟨rfl, rfl, rfl⟩, fun _ hp => State.inv_of_synced hp ⟨rfl, rfl, rfl⟩⟩

/-- Settles O59: an error is emitted at a frame's end only, where the buffer is not empty and holds no zero byte. -/
theorem errorsTheBlockCanReport : Obligations.ErrorsTheBlockCanReport := by
  intro s t k c hs h hout
  rcases step_effect h with ⟨e, rest, -, hr⟩ | ⟨rest, -, rfl⟩ | ⟨-, -, -, -, -, -, hsame⟩
  · cases hr with
    | frameEnd hrun hbuf =>
      rw [State.closeFrame_output, State.consume_output, List.append_cancel_left_eq, List.cons.injEq] at hout
      rcases State.frameOutcome_error (s := s.consume rest) hs hbuf hout.1 with
        ⟨rfl, rfl, hfull⟩ | ⟨rfl, rfl⟩ | ⟨rfl, rfl⟩ | ⟨rfl, rfl⟩
      · obtain ⟨cap, hcap, -⟩ := (State.bufFull_iff _).1 hfull
        exact .inr (.inr (.inl ⟨rfl, rfl, Option.ne_none_iff_exists'.2 ⟨cap, hcap⟩⟩))
      · exact .inl ⟨rfl, rfl⟩
      · refine .inr (.inl ⟨rfl, fun hk => ?_, fun hk => ?_⟩) <;> rw [State.consume_params, hk] <;> rfl
      · exact .inr (.inr (.inr ⟨rfl, rfl⟩))
    | _ => simp at hout
  · simp at hout
  · simp [hsame] at hout

end Sys2Proof

/-! Runs over input events (R98, R128 to R130): the step's reaction folded over the events, the bytes of a frame into the
buffer, its closing sentinel, and what follows for written frames and for any input. -/

namespace Sys2Proof
namespace Machine

/-! ### A run over input events is the fold of the reaction -/

/-- The state after the events `evs`. -/
def State.reacts (s : State) (evs : List InputEvent) : State := evs.foldl State.react s

/-- The state after the bytes `bs`. -/
def State.reactsBytes (s : State) (bs : List Byte) : State := s.reacts (bs.map .byte)

@[simp] theorem State.reacts_nil (s : State) : s.reacts [] = s := rfl
@[simp] theorem State.reacts_cons (s : State) (e : InputEvent) (evs : List InputEvent) :
    s.reacts (e :: evs) = (s.react e).reacts evs := rfl

theorem State.reacts_append (s : State) (evs evs' : List InputEvent) :
    s.reacts (evs ++ evs') = (s.reacts evs).reacts evs' := List.foldl_append

@[simp] theorem State.reactsBytes_nil (s : State) : s.reactsBytes [] = s := rfl
@[simp] theorem State.reactsBytes_cons (s : State) (b : Byte) (bs : List Byte) :
    s.reactsBytes (b :: bs) = (s.react (.byte b)).reactsBytes bs := rfl

theorem State.reactsBytes_append (s : State) (bs bs' : List Byte) :
    s.reactsBytes (bs ++ bs') = (s.reactsBytes bs).reactsBytes bs' := by
  simp only [State.reactsBytes, List.map_append, State.reacts_append]

theorem State.Reaction.consume {s t : State} {e : InputEvent} (h : s.Reaction e t) (rest : List Action) :
    (s.consume rest).Reaction e (t.consume rest) := by
  cases h with
  | ignored e hstop => exact .ignored e hstop
  | idleMarker hrun hbuf => exact .idleMarker hrun hbuf
  | frameEnd hrun hbuf => exact s.closeFrame_consume rest ▸ .frameEnd (s := s.consume rest) hrun hbuf
  | drop b hrun hb hfull => exact .drop (s := s.consume rest) b hrun hb hfull
  | store b hrun hb hfull => exact .store (s := s.consume rest) b hrun hb hfull
  | timeout hrun => exact .timeout hrun
  | stop hrun => exact .stop (s := s.consume rest) hrun
  | lost hrun => exact .lost (s := s.consume rest) hrun

theorem State.react_consume (s : State) (rest : List Action) (e : InputEvent) :
    (s.consume rest).react e = (s.react e).consume rest :=
  ((s.reaction_react e).consume rest).react_eq

theorem run_events (s : State) (evs : List InputEvent) (rest : List Action) :
    Host.Core.run core evs.length { s with pending := evs.map .event ++ rest } = .next ((s.reacts evs).consume rest) := by
  induction evs generalizing s with
  | nil => rfl
  | cons e evs ih =>
    have hstep : step (s.consume (.event e :: (evs.map .event ++ rest))) =
        .next ((s.react e).consume (evs.map .event ++ rest)) := by
      rw [step_act rfl, State.act, ← State.react_consume]
      rfl
    exact (run_succ evs.length hstep).trans (ih (s.react e))

theorem run_feed (s : State) (bs : List Byte) (rest : List Action) :
    Host.Core.run core bs.length { s with pending := feed bs ++ rest } = .next ((s.reactsBytes bs).consume rest) := by
  have h := run_events s (bs.map .byte) rest
  rwa [List.length_map, List.map_map] at h

/-! ### The bytes of a frame -/

/-- Bytes of a frame have been taken in: a running block with the buffer `b` and the flag `o`, its parameters and its output
those of `s`. -/
def State.receiving (s t : State) (b : List Byte) (o : Bool) : Prop :=
  t.params = s.params ∧ t.output = s.output ∧ t.fsm ≠ .stopped ∧ t.buf = b ∧ t.ovf = o

/-- R88: bytes that fit are stored. -/
theorem State.receiving_of_room {s : State} {bs : List Byte} (hrun : s.fsm ≠ .stopped) (hz : 0x00 ∉ bs)
    (hroom : s.roomFor (s.len + bs.length)) : s.receiving (s.reactsBytes bs) (s.buf ++ bs) s.ovf := by
  induction bs generalizing s with
  | nil => exact ⟨rfl, rfl, hrun, (List.append_nil _).symm, rfl⟩
  | cons b bs ih =>
    obtain ⟨hb, hbs⟩ := not_or.1 (mt List.mem_cons.2 hz)
    have hfull : s.bufFull = false := by
      refine s.not_bufFull_iff.2 fun cap hcap => ?_
      have h := hroom cap hcap
      rw [List.length_cons] at h
      omega
    rw [State.reactsBytes_cons, (State.Reaction.store b hrun (Ne.symm hb) hfull).react_eq]
    have hroom' : State.roomFor { s.appendBuf b with fsm := .accumulating } ((s.buf ++ [b]).length + bs.length) := by
      intro cap hcap
      have h := hroom cap hcap
      simp only [State.len, List.length_cons, List.length_append, List.length_nil] at h ⊢
      omega
    have h := ih (s := { s.appendBuf b with fsm := .accumulating }) (by simp) hbs hroom'
    rwa [State.appendBuf_buf, List.append_assoc] at h

/-- R93: into a full buffer nothing is stored. -/
theorem State.reactsBytes_of_full {s : State} {bs : List Byte} (hrun : s.fsm ≠ .stopped) (hz : 0x00 ∉ bs)
    (hfull : s.bufFull = true) (hbs : bs ≠ []) : s.reactsBytes bs = s.setOvf := by
  induction bs generalizing s with
  | nil => exact absurd rfl hbs
  | cons b bs ih =>
    obtain ⟨hb, hz'⟩ := not_or.1 (mt List.mem_cons.2 hz)
    rw [State.reactsBytes_cons, (State.Reaction.drop b hrun (Ne.symm hb) hfull).react_eq]
    by_cases hnil : bs = []
    · rw [hnil, State.reactsBytes_nil]
    · exact ih (s := s.setOvf) hrun hz' hfull hnil

/-- R88, R93: of bytes that do not fit the first ones fill the buffer, and the others set the flag. -/
theorem State.receiving_of_overflow {s : State} {bs : List Byte} {cap : Nat} (hrun : s.fsm ≠ .stopped) (hz : 0x00 ∉ bs)
    (hcap : cap ∈ s.params.bufCap) (hlen : s.len ≤ cap) (hover : cap < s.len + bs.length) :
    s.receiving (s.reactsBytes bs) (s.buf ++ bs.take (cap - s.len)) true := by
  have hroom : s.roomFor (s.len + (bs.take (cap - s.len)).length) := by
    intro cap' hcap'
    obtain rfl : cap = cap' := Option.mem_unique hcap hcap'
    rw [List.length_take]
    omega
  have hmore : bs.drop (cap - s.len) ≠ [] := by
    rw [← List.length_pos_iff, List.length_drop]
    omega
  obtain ⟨hparams, hout, hrun', hbuf, -⟩ := State.receiving_of_room hrun (mt List.mem_of_mem_take hz) hroom
  have hfull : (s.reactsBytes (bs.take (cap - s.len))).bufFull = true := by
    refine (State.bufFull_iff _).2 ⟨cap, hparams ▸ hcap, ?_⟩
    simp only [State.len, hbuf, List.length_append, List.length_take] at hlen hover ⊢
    omega
  rw [← List.take_append_drop (cap - s.len) bs, State.reactsBytes_append,
    State.reactsBytes_of_full hrun' (mt List.mem_of_mem_drop hz) hfull hmore, List.take_append_drop]
  exact ⟨hparams, hout, hrun', hbuf, rfl⟩

/-! ### A whole frame -/

/-- The one event `o` has been emitted, and the block is in step. -/
def State.delivers (s t : State) (o : OutputEvent) : Prop :=
  t.params = s.params ∧ t.output = s.output ++ [o] ∧ t.synced

theorem State.delivers_closeFrame (s : State) : s.delivers s.closeFrame s.frameOutcome :=
  ⟨s.closeFrame_params, s.closeFrame_output, s.synced_closeFrame⟩

/-- R91: the closing sentinel of a frame that has been taken in. -/
theorem State.receiving.delivers {s : State} {bs b : List Byte} {o : Bool} (h : s.receiving (s.reactsBytes bs) b o)
    (hb : b ≠ []) :
    s.delivers (s.reactsBytes (bs ++ [0x00]))
      (if o then .error .framing .overflow else outcomeEvent (pipeline s.params.shortKind b)) := by
  obtain ⟨hparams, hout, hrun, rfl, rfl⟩ := h
  rw [State.reactsBytes_append, State.reactsBytes_cons, (State.Reaction.frameEnd hrun hb).react_eq, State.reactsBytes_nil, ← hparams]
  obtain ⟨hparams', hout', hsync⟩ := (s.reactsBytes bs).delivers_closeFrame
  exact ⟨hparams'.trans hparams, by rw [hout', hout, State.frameOutcome], hsync⟩

/-- R98: a frame that fits, from a block in step. -/
theorem State.delivers_frame {s : State} {bs : List Byte} (hsync : s.synced) (hbs : bs ≠ []) (hz : 0x00 ∉ bs)
    (hroom : s.roomFor bs.length) :
    s.delivers (s.reactsBytes (bs ++ [0x00])) (outcomeEvent (pipeline s.params.shortKind bs)) := by
  obtain ⟨hfsm, hbuf, hovf⟩ := hsync
  have h := State.receiving_of_room (s := s) (bs := bs) (by simp [hfsm]) hz (by simpa [State.len, hbuf] using hroom)
  rw [hbuf, hovf] at h
  exact h.delivers hbs

/-- R93: a frame that does not fit, from a block in step. -/
theorem State.delivers_overflow {s : State} {bs : List Byte} {cap : Nat} (hsync : s.synced) (hwf : s.params.wf = true)
    (hz : 0x00 ∉ bs) (hcap : cap ∈ s.params.bufCap) (hover : cap < bs.length) :
    s.delivers (s.reactsBytes (bs ++ [0x00])) (.error .framing .overflow) := by
  obtain ⟨hfsm, hbuf, -⟩ := hsync
  have hpos := State.one_le_cap hwf hcap
  have h := State.receiving_of_overflow (s := s) (bs := bs) (by simp [hfsm]) hz hcap (by simp [State.len, hbuf])
    (by simpa [State.len, hbuf] using hover)
  refine h.delivers ?_
  rw [← List.length_pos_iff, State.len, hbuf, List.length_append, List.length_take]
  simp only [List.length_nil]
  omega

/-- R98, R99: a written frame, after its opening sentinel. -/
theorem State.delivers_stuffed {s : State} {e : List Byte} (hsync : s.synced)
    (hroom : s.roomFor (stuff (payloadOf e)).length) :
    s.delivers (s.reactsBytes (stuff (payloadOf e) ++ [0x00])) (.message e) := by
  have h := State.delivers_frame hsync (stuff_ne_nil _) (decodes_stuff _).zero_free hroom
  rwa [pipeline_stuff_payloadOf, outcomeEvent] at h

theorem State.reactsBytes_writeE (s : State) (e : List Byte) :
    s.reactsBytes (writeE e) = (s.react (.byte 0x00)).reactsBytes (stuff (payloadOf e) ++ [0x00]) := rfl

theorem State.delivers_writeE {s : State} {e : List Byte} (hsync : s.synced)
    (hroom : s.roomFor (stuff (payloadOf e)).length) : s.delivers (s.reactsBytes (writeE e)) (.message e) := by
  obtain ⟨hfsm, hbuf, -⟩ := id hsync
  have hopen : s.react (.byte 0x00) = s := (State.Reaction.idleMarker (by simp [hfsm]) hbuf).react_eq
  rw [State.reactsBytes_writeE, hopen]
  exact State.delivers_stuffed hsync hroom

/-- R100, R130: a written frame behind stray bytes, which its opening sentinel closes. -/
theorem State.delivers_writeE_of_stray {s : State} {e : List Byte} (hrun : s.fsm ≠ .stopped) (hbuf : s.buf ≠ [])
    (hroom : s.roomFor (stuff (payloadOf e)).length) :
    s.closeFrame.delivers (s.reactsBytes (writeE e)) (.message e) := by
  have hopen : s.react (.byte 0x00) = s.closeFrame := (State.Reaction.frameEnd hrun hbuf).react_eq
  have hroom' : s.closeFrame.roomFor (stuff (payloadOf e)).length := by
    rwa [State.roomFor, State.closeFrame_params]
  rw [State.reactsBytes_writeE, hopen]
  exact State.delivers_stuffed s.synced_closeFrame hroom'

/-- R98 (b): any number of written frames. -/
theorem State.reactsBytes_frames {s : State} {es : List (List Byte)} (hsync : s.synced)
    (hroom : ∀ e ∈ es, s.roomFor (stuff (payloadOf e)).length) :
    (s.reactsBytes (es.flatMap writeE)).params = s.params ∧
      (s.reactsBytes (es.flatMap writeE)).output = s.output ++ es.map .message ∧
      (s.reactsBytes (es.flatMap writeE)).synced := by
  induction es generalizing s with
  | nil => exact ⟨rfl, (List.append_nil _).symm, hsync⟩
  | cons e es ih =>
    obtain ⟨he, hes⟩ := List.forall_mem_cons.1 hroom
    obtain ⟨hparams, hout, hsync'⟩ := State.delivers_writeE hsync he
    obtain ⟨hparams', hout', hsync''⟩ := ih hsync' (fun e he => by rw [State.roomFor, hparams]; exact hes e he)
    rw [List.flatMap_cons, State.reactsBytes_append]
    refine ⟨hparams'.trans hparams, ?_, hsync''⟩
    rw [hout', hout, List.append_assoc, List.singleton_append, List.map_cons]

/-! ### Any input -/

theorem State.Reaction.running {s t : State} {e : InputEvent} (h : s.Reaction e t) (he : e.harmless = true)
    (hrun : s.fsm ≠ .stopped) : t.fsm ≠ .stopped := by
  cases h with
  | frameEnd => simp
  | store => simp
  | stop | lost => cases he
  | _ => exact hrun

/-- R98 (c). -/
theorem State.reacts_running {s : State} {evs : List InputEvent} (hs : s.Inv) (hrun : s.fsm ≠ .stopped)
    (hevs : ∀ e ∈ evs, e.harmless = true) : (s.reacts evs).Inv ∧ (s.reacts evs).fsm ≠ .stopped := by
  induction evs generalizing s with
  | nil => exact ⟨hs, hrun⟩
  | cons e evs ih =>
    obtain ⟨he, hevs⟩ := List.forall_mem_cons.1 hevs
    exact ih (State.react_inv hs e) ((s.reaction_react e).running he hrun) hevs

/-- R27, R29: with an empty buffer the invariant leaves only the state in step. -/
theorem State.synced_of_buf_nil {s : State} (hs : s.Inv) (hrun : s.fsm ≠ .stopped) (hbuf : s.buf = []) : s.synced := by
  obtain ⟨hwf, -, -, hidle, hovf⟩ := hs
  refine ⟨(hidle hrun).2 (by rw [State.len, hbuf, List.length_nil]), hbuf, Bool.eq_false_iff.2 fun ho => ?_⟩
  obtain ⟨cap, hcap, hlen⟩ := s.bufFull_iff.1 (hovf ho)
  have hpos := State.one_le_cap hwf hcap
  rw [State.len, hbuf, List.length_nil] at hlen
  omega

/-- R128: a sentinel brings a running block in step. -/
theorem State.synced_react_sentinel {s : State} (hs : s.Inv) (hrun : s.fsm ≠ .stopped) :
    (s.react (.byte 0x00)).synced := by
  by_cases hbuf : s.buf = []
  · rw [(State.Reaction.idleMarker hrun hbuf).react_eq]
    exact State.synced_of_buf_nil hs hrun hbuf
  · rw [(State.Reaction.frameEnd hrun hbuf).react_eq]
    exact s.synced_closeFrame

/-! ### Two blocks that agree -/

/-- Two blocks that agree in their parameters and their persistent state. -/
def State.agrees (s s' : State) : Prop :=
  s.params = s'.params ∧ s.fsm = s'.fsm ∧ s.buf = s'.buf ∧ s.ovf = s'.ovf

theorem State.agrees.bufFull {s s' : State} (h : s.agrees s') : s'.bufFull = s.bufFull := by
  obtain ⟨hparams, -, hbuf, -⟩ := h
  rw [State.bufFull, State.bufFull, State.len, State.len, hparams, hbuf]

theorem State.agrees.frameOutcome {s s' : State} (h : s.agrees s') : s'.frameOutcome = s.frameOutcome := by
  obtain ⟨hparams, -, hbuf, hovf⟩ := h
  rw [State.frameOutcome, State.frameOutcome, hparams, hbuf, hovf]

/-- R86: each row reads the persistent state and the parameters only, and emits the same. -/
theorem State.agrees.reaction {s s' t : State} {e : InputEvent} (h : s.agrees s') (hr : s.Reaction e t) :
    ∃ t', s'.Reaction e t' ∧ t.agrees t' ∧ ∃ outs, t.output = s.output ++ outs ∧ t'.output = s'.output ++ outs := by
  have hfull := h.bufFull
  have hframe := h.frameOutcome
  have hs := h
  obtain ⟨hparams, hfsm, hbuf, hovf⟩ := hs
  have hsame : ∃ outs, s.output = s.output ++ outs ∧ s'.output = s'.output ++ outs := ⟨[], by simp⟩
  cases hr with
  | ignored e hstop => exact ⟨s', .ignored e (hfsm ▸ hstop), h, hsame⟩
  | idleMarker hrun hnil => exact ⟨s', .idleMarker (hfsm ▸ hrun) (hbuf ▸ hnil), h, hsame⟩
  | frameEnd hrun hne =>
    exact ⟨_, .frameEnd (hfsm ▸ hrun) (hbuf ▸ hne), by simp [State.agrees, hparams], [s.frameOutcome], by simp [hframe]⟩
  | drop b hrun hb hb' =>
    exact ⟨_, .drop b (hfsm ▸ hrun) hb (hfull.trans hb'), ⟨hparams, hfsm, hbuf, rfl⟩, hsame⟩
  | store b hrun hb hb' =>
    exact ⟨_, .store b (hfsm ▸ hrun) hb (hfull.trans hb'), ⟨hparams, rfl, congrArg (· ++ [b]) hbuf, hovf⟩, hsame⟩
  | timeout hrun => exact ⟨s', .timeout (hfsm ▸ hrun), h, hsame⟩
  | stop hrun => exact ⟨_, .stop (hfsm ▸ hrun), ⟨hparams, rfl, hbuf, hovf⟩, [.exited], rfl, rfl⟩
  | lost hrun => exact ⟨_, .lost (hfsm ▸ hrun), ⟨hparams, rfl, hbuf, hovf⟩, [.transportLost], rfl, rfl⟩

theorem State.agrees.reacts {s s' : State} (h : s.agrees s') (evs : List InputEvent) :
    (s.reacts evs).agrees (s'.reacts evs) ∧
      ∃ outs, (s.reacts evs).output = s.output ++ outs ∧ (s'.reacts evs).output = s'.output ++ outs := by
  induction evs generalizing s s' with
  | nil => exact ⟨h, [], by simp⟩
  | cons e evs ih =>
    obtain ⟨t', hr, hreact, outs, hout, hout'⟩ := h.reaction (s.reaction_react e)
    obtain rfl := hr.react_eq
    obtain ⟨hreacts, outs', hmore, hmore'⟩ := ih hreact
    exact ⟨hreacts, outs ++ outs', by simp [hmore, hout], by simp [hmore', hout']⟩

end Machine

open Machine

/-- Settles O45: each frame in turn is delivered from a block in step and leaves it in step. -/
theorem writtenFramesAreReadInOrder : Obligations.WrittenFramesAreReadInOrder := by
  intro s es rest hsync hroom
  obtain ⟨hparams, hout, hsync'⟩ := State.reactsBytes_frames hsync hroom
  exact ⟨_, run_feed s _ rest, hout, hsync', rfl, hparams⟩

/-- Settles O46: the opening sentinel closes the stray frame, and the block is in step for the written one. -/
theorem strayBytesCostOneEvent : Obligations.StrayBytesCostOneEvent := by
  intro s e rest hrun hbuf hroom
  obtain ⟨-, hout, hsync⟩ := State.delivers_writeE_of_stray hrun hbuf hroom
  rw [State.closeFrame_output, List.append_assoc, List.singleton_append] at hout
  exact ⟨_, s.frameOutcome, run_feed s _ rest, hout, hsync, rfl, State.frameOutcome_overflow, State.frameOutcome_pipeline⟩

/-- Settles O47: the bytes fit and are all in the buffer at the closing sentinel, or they set the flag. -/
theorem frameOutcomeFromItsBytes : Obligations.FrameOutcomeFromItsBytes := by
  intro s bs rest hsync hwf hbs hz
  have hrun := run_feed s (bs ++ [0x00]) rest
  rw [List.length_append, List.length_singleton] at hrun
  by_cases hroom : s.roomFor bs.length
  · obtain ⟨-, hout, hsync'⟩ := State.delivers_frame hsync hbs hz hroom
    exact ⟨_, _, hrun, hout, hsync', rfl, fun _ => rfl, fun ⟨cap, hcap, hover⟩ => absurd (hroom cap hcap) (not_le.2 hover)⟩
  · obtain ⟨cap, hcap, hover⟩ : ∃ cap ∈ s.params.bufCap, cap < bs.length := by simpa [State.roomFor] using hroom
    obtain ⟨-, hout, hsync'⟩ := State.delivers_overflow hsync hwf hz hcap hover
    exact ⟨_, _, hrun, hout, hsync', rfl, fun h => absurd h hroom, fun _ => rfl⟩

/-- Settles O55: the invariant and running are kept along the events, and the last of them is a sentinel that meets both. -/
theorem badInputNeverStopsTheReader : Obligations.BadInputNeverStopsTheReader := by
  intro s evs rest hs hrun hevs
  refine ⟨_, run_events s evs rest, (State.reacts_running hs hrun hevs).2, rfl, fun hlast => ?_⟩
  obtain ⟨evs, rfl⟩ := List.getLast?_eq_some_iff.1 hlast
  obtain ⟨hs', hrun'⟩ := State.reacts_running hs hrun fun e he => hevs e (List.mem_append_left _ he)
  have hsync := State.synced_react_sentinel hs' hrun'
  rwa [← State.reacts_nil (State.react _ _), ← State.reacts_cons, ← State.reacts_append] at hsync

/-- Settles O56: two blocks in step with the same parameters agree, and blocks that agree react alike. -/
theorem outputsDependOnlyOnEventsSinceSync : Obligations.OutputsDependOnlyOnEventsSinceSync := by
  intro s s' evs rest rest' ⟨hfsm, hbuf, hovf⟩ ⟨hfsm', hbuf', hovf'⟩ hparams
  have h : s.agrees s' := ⟨hparams, hfsm.trans hfsm'.symm, hbuf.trans hbuf'.symm, hovf.trans hovf'.symm⟩
  obtain ⟨⟨-, hf, hb, ho⟩, outs, hout, hout'⟩ := h.reacts evs
  exact ⟨_, _, outs, run_events s evs rest, run_events s' evs rest', hout, hout', hf, hb, ho⟩

end Sys2Proof
